-- ==== Sys2Proof/Word.lean ====
section
/-! DEFINITION. The word types of GYSND (rule R12, R90, R110): a byte of a register write, and the 32-bit unit of
operation words, message words and shared counters. -/

namespace Sys2Proof

/-- A byte: the data of a register write, a cell of the host storage or of the Sample Buffer (R60). -/
abbrev Byte := BitVec 8

/-- A 32-bit word: an operation word (R90), a message word (R110) or a 32-bit shared field (R35). -/
abbrev Word := BitVec 32

end Sys2Proof
end

