-- ==== Sys2Proof/Config.lean ====
section
/-! DEFINITION. What is fixed for a run (rules R10, R47): the parameters, the decided constants, and the free values
the spec leaves to the host (rule R45). -/

namespace Sys2Proof

/-- The parameters of rule R10 that a run fixes and no rule changes (R47). They stand in State as read-only data, so
that a statement about every state is a statement about every configuration (log entry 1). -/
structure Config where
  /-- `CLOCK_SPEED`, emulated cycles per second; admitted range 64..2^23 (R215). -/
  clockSpeed    : Nat
  /-- `DROP_THRESHOLD`, at least 1 (R10, R248). -/
  dropThreshold : Nat
  /-- `QUEUE_CAPACITY`, at least 1 (R10, R48). -/
  queueCapacity : Nat
  /-- `WAVE_TABLE[0..15]`, signed bytes (R230). -/
  waveTable     : Vector Byte 16
  /-- `SAMPLE_BUF_ADDR` (R43, R65). -/
  sampleBufAddr : Word
  /-- `RSB_ADDR`, base of the real shared block (R64). -/
  rsbAddr       : Word
  /-- `DSB_ADDR`, base of the dummy shared block (R64). -/
  dsbAddr       : Word
  deriving DecidableEq, Repr

/-- `SENTINEL`: the value of `syncCycle` when no wait is pending (R10, decided 0xFFFFFFFF). -/
abbrev sentinel : Word := 0xFFFFFFFF#32

/-- `NO_EVENT`: the next-event minimum when no timer reported (R10, R212). -/
abbrev noEvent : Int := 0x7FFFFFFF

/-- The default configuration, which State.reset takes: `CLOCK_SPEED` is R10's default and `waveTable` R230's suggested
table. DESIGN CHOICE (log entry 2): threshold and capacity (large enough that a short run
drops nothing, as 95_test_vectors.md assumes) and the three addresses are OPEN in the spec. -/
def Config.standard : Config where
  clockSpeed    := 4194304
  dropThreshold := 1024
  queueCapacity := 1024
  waveTable     := #v[0x81#8, 0x91#8, 0xA1#8, 0xB1#8, 0xC1#8, 0xD1#8, 0xE1#8, 0xF1#8,
                      0x0F#8, 0x1F#8, 0x2F#8, 0x3F#8, 0x4F#8, 0x5F#8, 0x6F#8, 0x7F#8]
  sampleBufAddr := 0x00001000#32
  rsbAddr       := 0x00001100#32
  dsbAddr       := 0x00001200#32

/-- Free value (log entry 5): the host's `cyclesSinceFrame` at draw number n, when State lists no draw (R45: "draws from
H, under no law except their widths"). It has no body, so nothing can be proved of its value. -/
opaque Config.freeCyclesSinceFrame : Nat → Word

/-- Free value (log entry 5): the host's `doubleSpeed` at draw number n, when State lists no draw (R45). -/
opaque Config.freeDoubleSpeed : Nat → Bool

end Sys2Proof
end

