-- ==== Sys2Proof/Syntax.lean ====
section
/-! DEFINITION. The syntax of GYSND: the channel index (R15), the message fields (R110) and one constructor of Instr per
row of spec/opcode_table.json: the operations P decodes (R91), the reserved operation codes (R92) and the message words
C decodes (R110 to R112). -/

namespace Sys2Proof

/-- A channel index i in 0..3 (R15): swept square, square, wave, noise. -/
inductive Chan where
  | c0
  | c1
  | c2
  | c3
  deriving DecidableEq, Repr

/-- The command kind of a message (R110). -/
inductive MsgKind where
  | start
  | update
  | masterVolume
  | mute
  | unmute
  deriving DecidableEq, Repr

/-- The channel field of a message: an index, or the ALL sentinel (R110). -/
inductive MsgChan where
  | one (i : Chan)
  | all
  deriving DecidableEq, Repr

/-- Why the operation decoder rejects a word (R92 (b)). -/
inductive DecodeError where
  /-- A field that R91 marks "must be 0" is not 0. -/
  | mustBeZero
  deriving DecidableEq, Repr

/-- One constructor per row of the opcode table. The operands carry the widths of R91, so every term built from them is a
legal encoding, but for `msgReserved` (see WellFormed). -/
inductive Instr where
  -- WRITE to a defined register: op 0x0, the address, the data byte (R91, R93)
  /-- `WRITE 0x10, data` (R122). -/
  | writeSweep1 (data : Byte)
  /-- `WRITE 0x11, data` (R123). -/
  | writeLenduty1 (data : Byte)
  /-- `WRITE 0x12, data` (R126). -/
  | writeEnv1 (data : Byte)
  /-- `WRITE 0x13, data` (R124). -/
  | writeFreqlo1 (data : Byte)
  /-- `WRITE 0x14, data` (R125). -/
  | writeFreqhi1 (data : Byte)
  /-- `WRITE 0x16, data` (R123). -/
  | writeLenduty2 (data : Byte)
  /-- `WRITE 0x17, data` (R126). -/
  | writeEnv2 (data : Byte)
  /-- `WRITE 0x18, data` (R124). -/
  | writeFreqlo2 (data : Byte)
  /-- `WRITE 0x19, data` (R125). -/
  | writeFreqhi2 (data : Byte)
  /-- `WRITE 0x1A, data` (R150). -/
  | writeDacen3 (data : Byte)
  /-- `WRITE 0x1B, data` (R127). -/
  | writeLen3 (data : Byte)
  /-- `WRITE 0x1C, data` (R152). -/
  | writeLevel3 (data : Byte)
  /-- `WRITE 0x1D, data` (R124). -/
  | writeFreqlo3 (data : Byte)
  /-- `WRITE 0x1E, data` (R125). -/
  | writeFreqhi3 (data : Byte)
  /-- `WRITE 0x20, data` (R128). -/
  | writeLen4 (data : Byte)
  /-- `WRITE 0x21, data` (R126). -/
  | writeEnv4 (data : Byte)
  /-- `WRITE 0x22, data` (R160). -/
  | writePoly4 (data : Byte)
  /-- `WRITE 0x23, data` (R129). -/
  | writeTrig4 (data : Byte)
  /-- `WRITE 0x24, data` (R170). -/
  | writeMastervol (data : Byte)
  /-- `WRITE 0x25, data` (R172). -/
  | writeRouting (data : Byte)
  /-- `WRITE 0x26, data` (R175). -/
  | writeMasteren (data : Byte)
  /-- `WRITE 0x30 + j, data`, wave RAM (R231). -/
  | writeWave (j : BitVec 4) (data : Byte)
  -- WRITE to an address of the window that no register has (R190)
  | writeUnmapped15 (data : Byte)
  | writeUnmapped1F (data : Byte)
  | writeUnmapped27 (data : Byte)
  | writeUnmapped28 (data : Byte)
  | writeUnmapped29 (data : Byte)
  | writeUnmapped2A (data : Byte)
  | writeUnmapped2B (data : Byte)
  | writeUnmapped2C (data : Byte)
  | writeUnmapped2D (data : Byte)
  | writeUnmapped2E (data : Byte)
  | writeUnmapped2F (data : Byte)
  -- WRITE to an address outside the window: high address digit in the name, low digit an operand (R191)
  | writeOut0 (lo : BitVec 4) (data : Byte)
  | writeOut4 (lo : BitVec 4) (data : Byte)
  | writeOut5 (lo : BitVec 4) (data : Byte)
  | writeOut6 (lo : BitVec 4) (data : Byte)
  | writeOut7 (lo : BitVec 4) (data : Byte)
  | writeOut8 (lo : BitVec 4) (data : Byte)
  | writeOut9 (lo : BitVec 4) (data : Byte)
  | writeOutA (lo : BitVec 4) (data : Byte)
  | writeOutB (lo : BitVec 4) (data : Byte)
  | writeOutC (lo : BitVec 4) (data : Byte)
  | writeOutD (lo : BitVec 4) (data : Byte)
  | writeOutE (lo : BitVec 4) (data : Byte)
  | writeOutF (lo : BitVec 4) (data : Byte)
  -- the other operations (R91)
  /-- `ADVANCE elapsed` (R200). -/
  | advance (elapsed : BitVec 28)
  /-- `GETNEXT` (R297). -/
  | getnext
  /-- `VBLANK` (R293). -/
  | vblank
  /-- `INIT` (R280). -/
  | init
  /-- `REFRESH` (R285). -/
  | refresh
  /-- `MUTE` (R289). -/
  | mute
  /-- `UNMUTE` (R290). -/
  | unmute
  /-- `SETENABLED b` (R291). -/
  | setenabled (b : Bool)
  /-- `SETSYNC b` (R295). -/
  | setsync (b : Bool)
  -- the reserved operation codes (R92 (a)); the payload is bits 27:0
  | refusedA (payload : BitVec 28)
  | refusedB (payload : BitVec 28)
  | refusedC (payload : BitVec 28)
  | refusedD (payload : BitVec 28)
  | refusedE (payload : BitVec 28)
  | refusedF (payload : BitVec 28)
  -- the message words, which C decodes when it dequeues one (R110, R111)
  /-- `Start(i)`. -/
  | msgStart (i : Chan)
  /-- `Update(i)`. -/
  | msgUpdate (i : Chan)
  /-- `Update(ALL)`. -/
  | msgUpdateAll
  /-- `MasterVolume(ALL)`. -/
  | msgMasterVolumeAll
  /-- `Mute(ALL)`. -/
  | msgMuteAll
  /-- `Unmute(ALL)`. -/
  | msgUnmuteAll
  /-- Any other message word (R112). -/
  | msgReserved (w : Word)
  deriving DecidableEq, Repr

/-- Which of the two decoders reads the instruction: P's, of operation words, or C's, of message words. -/
inductive Interface where
  | operation
  | message
  deriving DecidableEq, Repr

end Sys2Proof
end

