-- ==== Sys2Proof/Decode.lean ====
section
/-! DEFINITION. The operation decoder of P (rules R90 to R93), the message decoder of C (R110 to R112), and after them the
encoder, written from the same tables. -/

namespace Sys2Proof

/-! ## The fields of an operation word (R91) -/

/-- `op`, bits 31:28. -/
def opField (w : Word) : BitVec 4 := w.extractLsb' 28 4

/-- The payload of `ADVANCE` and of the reserved codes, bits 27:0. -/
def payloadField (w : Word) : BitVec 28 := w.extractLsb' 0 28

/-- Bits 27:16, which a `WRITE` must have 0. -/
def highField (w : Word) : BitVec 12 := w.extractLsb' 16 12

/-- `addr` of a `WRITE`, high digit: bits 15:12. -/
def addrHighField (w : Word) : BitVec 4 := w.extractLsb' 12 4

/-- `addr` of a `WRITE`, low digit: bits 11:8. -/
def addrLowField (w : Word) : BitVec 4 := w.extractLsb' 8 4

/-- `data` of a `WRITE`, bits 7:0. -/
def dataField (w : Word) : Byte := w.extractLsb' 0 8

/-! ## The operation decoder -/

/-- The registers at 0x10..0x1F (R93), by low address digit. -/
def decodeWrite1 (lo : BitVec 4) (d : Byte) : Instr :=
  match lo with
  | 0x0#4 => .writeSweep1 d
  | 0x1#4 => .writeLenduty1 d
  | 0x2#4 => .writeEnv1 d
  | 0x3#4 => .writeFreqlo1 d
  | 0x4#4 => .writeFreqhi1 d
  | 0x5#4 => .writeUnmapped15 d
  | 0x6#4 => .writeLenduty2 d
  | 0x7#4 => .writeEnv2 d
  | 0x8#4 => .writeFreqlo2 d
  | 0x9#4 => .writeFreqhi2 d
  | 0xa#4 => .writeDacen3 d
  | 0xb#4 => .writeLen3 d
  | 0xc#4 => .writeLevel3 d
  | 0xd#4 => .writeFreqlo3 d
  | 0xe#4 => .writeFreqhi3 d
  | _ => /- 0xF -/ .writeUnmapped1F d

/-- The registers at 0x20..0x2F (R93), by low address digit. -/
def decodeWrite2 (lo : BitVec 4) (d : Byte) : Instr :=
  match lo with
  | 0x0#4 => .writeLen4 d
  | 0x1#4 => .writeEnv4 d
  | 0x2#4 => .writePoly4 d
  | 0x3#4 => .writeTrig4 d
  | 0x4#4 => .writeMastervol d
  | 0x5#4 => .writeRouting d
  | 0x6#4 => .writeMasteren d
  | 0x7#4 => .writeUnmapped27 d
  | 0x8#4 => .writeUnmapped28 d
  | 0x9#4 => .writeUnmapped29 d
  | 0xa#4 => .writeUnmapped2A d
  | 0xb#4 => .writeUnmapped2B d
  | 0xc#4 => .writeUnmapped2C d
  | 0xd#4 => .writeUnmapped2D d
  | 0xe#4 => .writeUnmapped2E d
  | _ => /- 0xF -/ .writeUnmapped2F d

/-- A `WRITE` by its address (R93, R120, R190, R191). -/
def decodeWrite (hi lo : BitVec 4) (d : Byte) : Instr :=
  match hi with
  | 0x0#4 => .writeOut0 lo d
  | 0x1#4 => decodeWrite1 lo d
  | 0x2#4 => decodeWrite2 lo d
  | 0x3#4 => .writeWave lo d
  | 0x4#4 => .writeOut4 lo d
  | 0x5#4 => .writeOut5 lo d
  | 0x6#4 => .writeOut6 lo d
  | 0x7#4 => .writeOut7 lo d
  | 0x8#4 => .writeOut8 lo d
  | 0x9#4 => .writeOut9 lo d
  | 0xA#4 => .writeOutA lo d
  | 0xB#4 => .writeOutB lo d
  | 0xC#4 => .writeOutC lo d
  | 0xD#4 => .writeOutD lo d
  | 0xE#4 => .writeOutE lo d
  | _ => /- 0xF -/ .writeOutF lo d

/-- An operation all of whose bits 27:0 must be 0 (R91, R92 (b)). -/
def decodeNone (w : Word) (i : Instr) : Except DecodeError Instr :=
  if payloadField w = 0#28 then .ok i else .error .mustBeZero

/-- An operation whose bits 27:1 must be 0 and whose bit 0 is `b` (R91, R92 (b)). -/
def decodeFlag (w : Word) (i : Bool → Instr) : Except DecodeError Instr :=
  if payloadField w = 0#28 then .ok (i false)
  else if payloadField w = 1#28 then .ok (i true)
  else .error .mustBeZero

/-- P's decoder, total on every word (R90): an operation of R91, a reserved operation code of R92 (a), or the rejection
of a must-be-zero field (R92 (b)). -/
def decodeOperation (w : Word) : Except DecodeError Instr :=
  match opField w with
  | 0x0#4 =>
    if highField w = 0#12 then .ok (decodeWrite (addrHighField w) (addrLowField w) (dataField w))
    else .error .mustBeZero
  | 0x1#4 => .ok (.advance (payloadField w))
  | 0x2#4 => decodeNone w .getnext
  | 0x3#4 => decodeNone w .vblank
  | 0x4#4 => decodeNone w .init
  | 0x5#4 => decodeNone w .refresh
  | 0x6#4 => decodeNone w .mute
  | 0x7#4 => decodeNone w .unmute
  | 0x8#4 => decodeFlag w .setenabled
  | 0x9#4 => decodeFlag w .setsync
  | 0xA#4 => .ok (.refusedA (payloadField w))
  | 0xB#4 => .ok (.refusedB (payloadField w))
  | 0xC#4 => .ok (.refusedC (payloadField w))
  | 0xD#4 => .ok (.refusedD (payloadField w))
  | 0xE#4 => .ok (.refusedE (payloadField w))
  | _ => /- 0xF -/ .ok (.refusedF (payloadField w))

/-! ## The message word (R110) -/

/-- The number of a channel index (R15). -/
def Chan.index : Chan → Nat
  | .c0 => 0
  | .c1 => 1
  | .c2 => 2
  | .c3 => 3

/-- The code of a message kind, bits 7:4 (R110). -/
def MsgKind.code : MsgKind → Nat
  | .start => 0
  | .update => 1
  | .masterVolume => 2
  | .mute => 3
  | .unmute => 4

/-- The code of a message channel, bits 3:0; 0xF is ALL (R110). -/
def MsgChan.code : MsgChan → Nat
  | .one i => i.index
  | .all => 0xF

/-- `Msg(kind, chan)` (R110, R241). -/
def messageWord (k : MsgKind) (c : MsgChan) : Word :=
  BitVec.ofNat 32 (k.code * 2 ^ 4 + c.code)

/-- The forms P produces and no others (R111). -/
def messageForm (w : Word) : Option Instr :=
  match w with
  | 0x00#32 => some (.msgStart .c0)
  | 0x01#32 => some (.msgStart .c1)
  | 0x02#32 => some (.msgStart .c2)
  | 0x03#32 => some (.msgStart .c3)
  | 0x10#32 => some (.msgUpdate .c0)
  | 0x11#32 => some (.msgUpdate .c1)
  | 0x12#32 => some (.msgUpdate .c2)
  | 0x13#32 => some (.msgUpdate .c3)
  | 0x1F#32 => some .msgUpdateAll
  | 0x2F#32 => some .msgMasterVolumeAll
  | 0x3F#32 => some .msgMuteAll
  | 0x4F#32 => some .msgUnmuteAll
  | _ => none

/-- C's decoder of a dequeued word, total: a form of R111, or a reserved word (R112). -/
def decodeMessage (w : Word) : Instr :=
  match messageForm w with
  | some i => i
  | none => .msgReserved w

/-! ## The encoder -/

/-- Which decoder reads an instruction's word. -/
def Instr.interface : Instr → Interface
  | .msgStart _ | .msgUpdate _ | .msgUpdateAll | .msgMasterVolumeAll | .msgMuteAll | .msgUnmuteAll
  | .msgReserved _ => .message
  | .writeSweep1 _ | .writeLenduty1 _ | .writeEnv1 _ | .writeFreqlo1 _ | .writeFreqhi1 _ | .writeLenduty2 _
  | .writeEnv2 _ | .writeFreqlo2 _ | .writeFreqhi2 _ | .writeDacen3 _ | .writeLen3 _ | .writeLevel3 _
  | .writeFreqlo3 _ | .writeFreqhi3 _ | .writeLen4 _ | .writeEnv4 _ | .writePoly4 _ | .writeTrig4 _
  | .writeMastervol _ | .writeRouting _ | .writeMasteren _ | .writeWave _ _ | .writeUnmapped15 _
  | .writeUnmapped1F _ | .writeUnmapped27 _ | .writeUnmapped28 _ | .writeUnmapped29 _ | .writeUnmapped2A _
  | .writeUnmapped2B _ | .writeUnmapped2C _ | .writeUnmapped2D _ | .writeUnmapped2E _ | .writeUnmapped2F _
  | .writeOut0 _ _ | .writeOut4 _ _ | .writeOut5 _ _ | .writeOut6 _ _ | .writeOut7 _ _ | .writeOut8 _ _
  | .writeOut9 _ _ | .writeOutA _ _ | .writeOutB _ _ | .writeOutC _ _ | .writeOutD _ _ | .writeOutE _ _
  | .writeOutF _ _ | .advance _ | .getnext | .vblank | .init | .refresh | .mute | .unmute | .setenabled _
  | .setsync _ | .refusedA _ | .refusedB _ | .refusedC _ | .refusedD _ | .refusedE _ | .refusedF _ => .operation

/-- The word of `WRITE addr, data`: op 0, bits 27:16 zero, `addr` in 15:8, `data` in 7:0 (R91). -/
def writeWord (hi lo : Nat) (d : Byte) : Word := BitVec.ofNat 32 (hi * 2 ^ 12 + lo * 2 ^ 8 + d.toNat)

/-- The word of operation code `op` with the given bits 27:0 (R91). -/
def operationWord (op : Nat) (payload : BitVec 28) : Word := BitVec.ofNat 32 (op * 2 ^ 28 + payload.toNat)

/-- Bits 27:0 of a flag operation (R91). -/
def flagPayload (b : Bool) : BitVec 28 := if b then 1#28 else 0#28

/-- The word of an instruction: its operation word (R91) or its message word (R110). -/
def encode : Instr → Word
  | .writeSweep1 d => writeWord 0x1 0x0 d
  | .writeLenduty1 d => writeWord 0x1 0x1 d
  | .writeEnv1 d => writeWord 0x1 0x2 d
  | .writeFreqlo1 d => writeWord 0x1 0x3 d
  | .writeFreqhi1 d => writeWord 0x1 0x4 d
  | .writeLenduty2 d => writeWord 0x1 0x6 d
  | .writeEnv2 d => writeWord 0x1 0x7 d
  | .writeFreqlo2 d => writeWord 0x1 0x8 d
  | .writeFreqhi2 d => writeWord 0x1 0x9 d
  | .writeDacen3 d => writeWord 0x1 0xA d
  | .writeLen3 d => writeWord 0x1 0xB d
  | .writeLevel3 d => writeWord 0x1 0xC d
  | .writeFreqlo3 d => writeWord 0x1 0xD d
  | .writeFreqhi3 d => writeWord 0x1 0xE d
  | .writeLen4 d => writeWord 0x2 0x0 d
  | .writeEnv4 d => writeWord 0x2 0x1 d
  | .writePoly4 d => writeWord 0x2 0x2 d
  | .writeTrig4 d => writeWord 0x2 0x3 d
  | .writeMastervol d => writeWord 0x2 0x4 d
  | .writeRouting d => writeWord 0x2 0x5 d
  | .writeMasteren d => writeWord 0x2 0x6 d
  | .writeWave j d => writeWord 0x3 j.toNat d
  | .writeUnmapped15 d => writeWord 0x1 0x5 d
  | .writeUnmapped1F d => writeWord 0x1 0xF d
  | .writeUnmapped27 d => writeWord 0x2 0x7 d
  | .writeUnmapped28 d => writeWord 0x2 0x8 d
  | .writeUnmapped29 d => writeWord 0x2 0x9 d
  | .writeUnmapped2A d => writeWord 0x2 0xA d
  | .writeUnmapped2B d => writeWord 0x2 0xB d
  | .writeUnmapped2C d => writeWord 0x2 0xC d
  | .writeUnmapped2D d => writeWord 0x2 0xD d
  | .writeUnmapped2E d => writeWord 0x2 0xE d
  | .writeUnmapped2F d => writeWord 0x2 0xF d
  | .writeOut0 lo d => writeWord 0x0 lo.toNat d
  | .writeOut4 lo d => writeWord 0x4 lo.toNat d
  | .writeOut5 lo d => writeWord 0x5 lo.toNat d
  | .writeOut6 lo d => writeWord 0x6 lo.toNat d
  | .writeOut7 lo d => writeWord 0x7 lo.toNat d
  | .writeOut8 lo d => writeWord 0x8 lo.toNat d
  | .writeOut9 lo d => writeWord 0x9 lo.toNat d
  | .writeOutA lo d => writeWord 0xA lo.toNat d
  | .writeOutB lo d => writeWord 0xB lo.toNat d
  | .writeOutC lo d => writeWord 0xC lo.toNat d
  | .writeOutD lo d => writeWord 0xD lo.toNat d
  | .writeOutE lo d => writeWord 0xE lo.toNat d
  | .writeOutF lo d => writeWord 0xF lo.toNat d
  | .advance e => operationWord 0x1 e
  | .getnext => operationWord 0x2 0
  | .vblank => operationWord 0x3 0
  | .init => operationWord 0x4 0
  | .refresh => operationWord 0x5 0
  | .mute => operationWord 0x6 0
  | .unmute => operationWord 0x7 0
  | .setenabled b => operationWord 0x8 (flagPayload b)
  | .setsync b => operationWord 0x9 (flagPayload b)
  | .refusedA p => operationWord 0xA p
  | .refusedB p => operationWord 0xB p
  | .refusedC p => operationWord 0xC p
  | .refusedD p => operationWord 0xD p
  | .refusedE p => operationWord 0xE p
  | .refusedF p => operationWord 0xF p
  | .msgStart i => messageWord .start (.one i)
  | .msgUpdate i => messageWord .update (.one i)
  | .msgUpdateAll => messageWord .update .all
  | .msgMasterVolumeAll => messageWord .masterVolume .all
  | .msgMuteAll => messageWord .mute .all
  | .msgUnmuteAll => messageWord .unmute .all
  | .msgReserved w => w

/-- The instruction the machine's decoder of fetched words reads from a table word: only the low `nbits` bits of `w` are
given, the rest of the 32-bit word is 0 (R90: no operation is longer or shorter). A word is fetched as an OPERATION; the
message rows share their bits with `WRITE 0x00, data` and are read by `decodeMessage` (log entry 8). -/
def decodeTableWord (nbits w : Nat) : Option Instr :=
  match decodeOperation (BitVec.ofNat 32 (w % 2 ^ nbits)) with
  | .ok i => some i
  | .error _ => none

end Sys2Proof
end

