-- ==== Sys2Proof/WellFormed.lean ====
section
/-! DEFINITION. Which terms of Instr are instructions. The operand types carry every width of R91 and R110, so one check
is left: a reserved message word is one that is NOT a form of R111. -/

namespace Sys2Proof

/-- `msgReserved w` stands for "any other word" (R112): its word is no form of R111. -/
def Instr.wellFormed : Instr → Bool
  | .msgReserved w => (messageForm w).isNone
  | _ => true

/-- The instruction is well formed. -/
abbrev WellFormed (i : Instr) : Prop := i.wellFormed = true

end Sys2Proof
end

