-- ==== Sys2Proof/Machine/State.lean ====
section
/-! DEFINITION. The state of GYSND as plain data: the channel records (R20), the producer globals (R30), the two shared
blocks (R35), the queue (R48), the Sample Buffer (R65), the consumer's half-done moves (R262 to R265), P's hold inside an
operation (R253), and the inputs the host and the consumer supply (R44, R45, section 4 of 44_sync_messaging.md). -/

namespace Sys2Proof.Machine

/-! ## Channel records (R20)

Each channel has exactly the fields the table of R20 lists for it, at the table's widths. Counters are Int: R12 asks for
exact arithmetic, and R215 proves them inside signed 32 bits (log entry 3). -/

/-- What every channel has: the on flag (R21), the length enable, the length counter and the pan (R24). -/
structure Voice where
  on         : Bool
  lenEnable  : Bool
  lenCounter : Int
  pan        : BitVec 2
  deriving DecidableEq, Repr

/-- The envelope of channels 0, 1 and 3, with the current volume (R23). -/
structure Envelope where
  vol     : BitVec 4
  init    : BitVec 4
  up      : Bool
  period  : BitVec 3
  counter : Int
  deriving DecidableEq, Repr

/-- The sweep of channel 0. -/
structure Sweep where
  time    : BitVec 3
  down    : Bool
  shift   : BitVec 3
  counter : Int
  deriving DecidableEq, Repr

/-- Channel 0, the swept square. `freq` has 12 bits: bit 11 only after a sweep overflow (R22). -/
structure SweptSquare where
  voice : Voice
  env   : Envelope
  sweep : Sweep
  freq  : BitVec 12
  duty  : BitVec 2
  len   : BitVec 6
  deriving DecidableEq, Repr

/-- Channel 1, the square. -/
structure Square where
  voice : Voice
  env   : Envelope
  freq  : BitVec 12
  duty  : BitVec 2
  len   : BitVec 6
  deriving DecidableEq, Repr

/-- Channel 2, the wave channel: a 2-bit level code for volume (R23) and the DAC flag. -/
structure WaveChannel where
  voice : Voice
  freq  : BitVec 12
  vol   : BitVec 2
  len   : BitVec 8
  dac   : Bool
  deriving DecidableEq, Repr

/-- Channel 3, the noise channel: `freq` is the raw polynomial byte (R22). -/
structure NoiseChannel where
  voice : Voice
  env   : Envelope
  freq  : BitVec 8
  len   : BitVec 6
  deriving DecidableEq, Repr

/-- The values of a channel that the write frame compares before and after (R121), zero-extended to the widths they are
committed at (R37). `duty` is 0 for the channels that have none. -/
structure Params where
  on   : Bool
  vol  : Byte
  freq : BitVec 16
  duty : Byte
  deriving DecidableEq, Repr

/-! ## The shared state block (R35, R64) -/

/-- One value per channel. -/
structure PerChan (α : Type) where
  c0 : α
  c1 : α
  c2 : α
  c3 : α
  deriving DecidableEq, Repr

/-- A shared block: the fields of R35. `onMask` has the 4 bits that R36 lets be 1; the flags that R35 types "8 bits (0 or
1)" are Bool; R64's byte image is computed from it (Machine/Shared.lean). -/
structure SharedBlock where
  onMask             : BitVec 4
  masterVolume       : Byte
  routing            : Byte
  hyperSync          : Bool
  vol                : PerChan Byte
  freq               : PerChan (BitVec 16)
  pan                : PerChan Byte
  duty               : PerChan Byte
  message            : Word
  sentCount          : Word
  recvCount          : Word
  syncCycle          : Word
  consumerCycle      : Word
  producerFlip       : Bool
  consumerFlip       : Bool
  flipInProgress     : Bool
  transferInProgress : Bool
  sampleBufPtr       : Word
  deriving DecidableEq, Repr

/-- The name of a shared-block field (R35, R64). -/
inductive Field where
  | onMask
  | masterVolume
  | routing
  | hyperSync
  | vol (i : Chan)
  | freq (i : Chan)
  | pan (i : Chan)
  | duty (i : Chan)
  | message
  | sentCount
  | recvCount
  | syncCycle
  | consumerCycle
  | producerFlip
  | consumerFlip
  | flipInProgress
  | transferInProgress
  | sampleBufPtr
  deriving DecidableEq, Repr

/-- Who writes a field (R35, R50): the producer, the consumer, or both by the handshake (`syncCycle`). -/
inductive Owner where
  | producer
  | consumer
  | handshake
  deriving DecidableEq, Repr

/-- The places of memory that have an address (R60, R64, R65). -/
inductive Region where
  | realBlock
  | dummyBlock
  | sampleBuffer
  deriving DecidableEq, Repr

/-- The shared block P writes (R30, R33). -/
inductive Target where
  | real
  | dummy
  deriving DecidableEq, Repr

/-! ## Memory

A sparse byte memory: addresses strictly rising, no entry equal to 0x00, which an unlisted address reads as. It holds the
host's register storage (R44) and the Sample Buffer (R65). -/

/-- A list of (address, byte) pairs in canonical form (`Memory.wf`). -/
abbrev Memory := List Host.Cell

/-! ## Events, diagnostics, tasks -/

/-- The diagnostic codes (R301). -/
inductive DiagCode where
  | queueFull
  | thresholdDrop
  | syncFallback
  | syncAbort
  deriving DecidableEq, Repr

/-- `P.diagCount[1..4]` (R302): unsigned 32-bit counters. -/
structure DiagCounts where
  queueFull     : Word
  thresholdDrop : Word
  syncFallback  : Word
  syncAbort     : Word
  deriving DecidableEq, Repr

/-- What GYSND puts out to the host (R46): the deactivation event (R305), a diagnostic event (R301), the value GETNEXT
returns (R297). -/
inductive HostEvent where
  | deactivate (i : Chan)
  | diag (c : DiagCode)
  | nextEvent (n : Int)
  deriving DecidableEq, Repr

/-- What an operation still has to do after a `Send` that may hold P: the iterations of the resync (R180) and the last
line of UNMUTE (R290). Nothing else follows a `Send` in any rule. -/
inductive Task where
  /-- One iteration of the bulk pass, at address `a` (R181). -/
  | bulk (a : Byte)
  /-- One iteration of the re-trigger pass, with `prev[i]` (R182). -/
  | retrigger (i : Chan) (prev : Bool)
  /-- The `Unmute` word of UNMUTE (R290). -/
  | unmuteWord
  deriving DecidableEq, Repr

/-- P holds inside a `SyncSend` of `word` (R253); `rest` is what its operation does after it. -/
structure Held where
  word : Word
  rest : List Task
  deriving DecidableEq, Repr

/-! ## The host and the consumer (R7, R8)

Their actions are inputs. Each is a list in State that the step reads, so that one deterministic function covers every
operation stream and every interleaving (log entry 4). -/

/-- What the host does next: it stores a byte in its register storage, or issues an operation word (R113, R341). -/
inductive HostAction where
  | store (a d : Byte)
  | op (w : Word)
  deriving DecidableEq, Repr

/-- The two host inputs that each `SyncSend` reads (R45). -/
structure HostDraw where
  cyclesSinceFrame : Word
  doubleSpeed      : Bool
  deriving DecidableEq, Repr

/-- How far the consumer is in its FlipEnd move (R265): not in it; about to clear `consumerCycle`; about to clear
`flipInProgress`. -/
inductive FlipStage where
  | idle
  | clearCycle
  | clearProgress
  deriving DecidableEq, Repr

/-- The consumer's half-done moves: the word it has removed but not counted (R262), an acknowledgment whose second write
is due (R263), a flip end under way (R265). DESIGN CHOICE (log entry 14): at most one of each kind is half done. -/
structure Consumer where
  dequeued      : Option Word
  acknowledging : Bool
  flipStage     : FlipStage
  deriving DecidableEq, Repr

/-- One atomic step of the consumer (R262 to R267). A multi-step move has one constructor for its first step and one for
each later step. `read` and `write` are accesses by address: a write to a field of C's own is one of these steps (log entry
19), and the others let R309 (c) and (e) be met. -/
inductive ConsumerMove where
  | dequeue
  | finishDequeue
  | acknowledge
  | finishAcknowledge
  | position (x : Word)
  | flipBegin
  | flipEnd
  | continueFlip
  | transfer (b : Bool)
  | read (addr : Word) (bytes : Nat)
  | write (addr : Word) (bytes : Nat) (v : Word)
  deriving DecidableEq, Repr

/-! ## The state -/

/-- The state of GYSND. INVENTORY.md lists each field with its rule and its reset value. -/
structure State where
  /-- The configuration (R47): read, never written. -/
  cfg          : Config
  /-- `ch[0]`. -/
  ch0          : SweptSquare
  /-- `ch[1]`. -/
  ch1          : Square
  /-- `ch[2]`. -/
  ch2          : WaveChannel
  /-- `ch[3]`. -/
  ch3          : NoiseChannel
  /-- `P.masterEnable` (R31). -/
  masterEnable : Bool
  /-- `P.soundEnabled` (R32). -/
  soundEnabled : Bool
  /-- `P.muted` (R33). -/
  muted        : Bool
  /-- `P.target` (R33). -/
  target       : Target
  /-- `P.accurateSync` (R34). -/
  accurateSync : Bool
  /-- `P.masterVolume` (R30). -/
  masterVolume : Byte
  /-- `P.routing` (R30). -/
  routing      : Byte
  /-- `P.nextEvent` (R212). -/
  nextEvent    : Int
  /-- `P.producerFlip` (R293). -/
  producerFlip : Bool
  /-- `P.sampleBuf[0..31]` (R65), by index. -/
  sampleBuf    : Memory
  /-- `P.diagCount` (R302). -/
  diagCount    : DiagCounts
  /-- `RSB`, the real shared block (R35). -/
  rsb          : SharedBlock
  /-- `DSB`, the dummy shared block (R35). -/
  dsb          : SharedBlock
  /-- `Q`, head first (R48). -/
  queue        : List Word
  /-- Has an `INIT` been executed? (R330) -/
  started      : Bool
  /-- P's hold inside an operation (R253). -/
  held         : Option Held
  /-- The consumer's half-done moves. -/
  consumer     : Consumer
  /-- The host's register storage, `io(a)` (R44), by address 0x10..0x3F. -/
  io           : Memory
  /-- What the host will do, first action first (R8). -/
  stream       : List HostAction
  /-- What the consumer will do: one list of atomic steps per opportunity between two steps of P. -/
  turns        : List (List ConsumerMove)
  /-- The host inputs the next `SyncSend`s will read (R45). -/
  draws        : List HostDraw
  /-- How many draws came from the free values so far (log entry 5). -/
  drawCount    : Nat
  /-- What GYSND has put out to the host, oldest first (R46). -/
  events       : List HostEvent
  deriving DecidableEq, Repr

/-- A timing-engine slice under way: the state and the local flag `changed` of R200. -/
structure Slice where
  state   : State
  changed : Bool
  deriving DecidableEq, Repr

/-! ## How a step can stop -/

/-- The faults of the environment (R309): the run is marked faulty. GYSND itself raises none (R300). All are SAFE: the
spec gives these inputs no meaning (the last one: no next state), so stopping proves nothing false. -/
inductive Fault where
  /-- Raised by the consumer's second dequeue step and by `msgReserved`: the dequeued word is no form of R111 (R309 (d)). -/
  | reservedMessage (w : Word)
  /-- Raised by a consumer write to a field, block or buffer it does not own (R50, R309 (c)). -/
  | wrongWriter
  /-- Raised by a consumer read of the dummy block, which R267 says it never reads. -/
  | dummyBlockRead
  /-- Raised by an access of the consumer or a store of the host at an address that has nothing (R60). -/
  | noSuchAddress
  /-- Raised by any consumer step before the first `INIT` (R309 (b), R340). -/
  | consumerBeforeInit
  /-- Raised by an `INIT` while a consumer move is half done (R281, R309 (b)). -/
  | initWhileConsumerActive
  /-- Raised by an operation issued while P holds inside another (R298, R343). -/
  | reentrantOperation
  /-- Raised by `ADVANCE` whose sweep loop never ends: its period is 0 (sweep time 1 and `CLOCK_SPEED` below 128) and the
  frequency never overflows. Not of R309: the spec's loop gives no next state there (log entry 11). -/
  | endlessSweep
  deriving DecidableEq, Repr

/-- The refusals: no step is taken. All are SAFE: nothing is claimed of what would follow. -/
inductive Refusal where
  /-- An arm of exec whose instruction has no meaning yet. -/
  | notModelled (mnemonic : String)
  /-- Raised by the six reserved operation codes (R92 (a), R309 (a)). -/
  | reservedOperation
  /-- Raised by step: a fetched word whose must-be-zero field is not 0 (R92 (b), R309 (a)). -/
  | mustBeZero
  /-- Raised by every operation but `INIT` before the first `INIT` (R330, R309 (b)). -/
  | beforeInit
  /-- Raised by step and by every operation in a configuration outside its admitted range (R215, R309 (f)). -/
  | badConfiguration
  /-- Raised by a partial or misaligned access of the consumer (R62, R309 (e)). -/
  | partialAccess
  deriving DecidableEq, Repr

/-! ## Reset (R331) -/

/-- A voice after `INIT`: every field 0 (R20). -/
def Voice.reset : Voice := ⟨false, false, 0, 0⟩

/-- An envelope after `INIT`: every field 0 (R20). -/
def Envelope.reset : Envelope := ⟨0, 0, false, 0, 0⟩

/-- A sweep after `INIT`: every field 0 (R20). -/
def Sweep.reset : Sweep := ⟨0, false, 0, 0⟩

/-- A shared block after `INIT` (R331): `syncCycle` holds SENTINEL, `sampleBufPtr` the buffer's address, the rest 0. -/
def SharedBlock.reset (cfg : Config) : SharedBlock where
  onMask             := 0
  masterVolume       := 0
  routing            := 0
  hyperSync          := false
  vol                := ⟨0, 0, 0, 0⟩
  freq               := ⟨0, 0, 0, 0⟩
  pan                := ⟨0, 0, 0, 0⟩
  duty               := ⟨0, 0, 0, 0⟩
  message            := 0
  sentCount          := 0
  recvCount          := 0
  syncCycle          := sentinel
  consumerCycle      := 0
  producerFlip       := false
  consumerFlip       := false
  flipInProgress     := false
  transferInProgress := false
  sampleBufPtr       := cfg.sampleBufAddr

/-- The machine right after reset: the values that R331 gives after `INIT`, with a host storage that reads 0 everywhere,
no host action listed, and the consumer idle (log entries 2, 6, 7). -/
def State.reset : State where
  cfg          := Config.standard
  ch0          := ⟨Voice.reset, Envelope.reset, Sweep.reset, 0, 0, 0⟩
  ch1          := ⟨Voice.reset, Envelope.reset, 0, 0, 0⟩
  ch2          := ⟨Voice.reset, 0, 0, 0, false⟩
  ch3          := ⟨Voice.reset, Envelope.reset, 0, 0⟩
  masterEnable := false
  soundEnabled := true
  muted        := false
  target       := .real
  accurateSync := false
  masterVolume := 0
  routing      := 0
  nextEvent    := noEvent
  producerFlip := false
  sampleBuf    := (List.range 32).map fun k => (k, 0x81#8)
  diagCount    := ⟨0, 0, 0, 0⟩
  rsb          := SharedBlock.reset Config.standard
  dsb          := SharedBlock.reset Config.standard
  queue        := []
  started      := true
  held         := none
  consumer     := ⟨none, false, .idle⟩
  io           := []
  stream       := []
  turns        := []
  draws        := []
  drawCount    := 0
  events       := []

end Sys2Proof.Machine
end

