-- ==== Sys2Proof/Machine/Operands.lean ====
section
/-! DEFINITION. The operand forms: the bit fields of the register bytes (R94 to R105), the frequency assembly (R107,
R124, R125), the noise decode (R161), the wave conversion (R231) and the reload values of the timers (R130, R142, R203). -/

namespace Sys2Proof.Machine

/-! ## Bit fields of the register bytes. R107: unsigned, extracted as data[hi:lo]; ignored bits do not appear (R106). -/

/-- `SWEEP1` data[6:4] (R94). -/
def sweepTimeOf (d : Byte) : BitVec 3 := d.extractLsb' 4 3

/-- `SWEEP1` data[3], 1 = subtract (R94). -/
def sweepDownOf (d : Byte) : Bool := d.getLsbD 3

/-- `SWEEP1` data[2:0] (R94). -/
def sweepShiftOf (d : Byte) : BitVec 3 := d.extractLsb' 0 3

/-- `LENDUTY1/2` data[7:6] (R95). -/
def dutyOf (d : Byte) : BitVec 2 := d.extractLsb' 6 2

/-- The length data of `LENDUTY1/2` and `LEN4`, data[5:0] (R95); `LEN3` takes the whole byte. -/
def lengthOf (d : Byte) : BitVec 6 := d.extractLsb' 0 6

/-- `ENV` data[7:4] (R96). -/
def envInitOf (d : Byte) : BitVec 4 := d.extractLsb' 4 4

/-- `ENV` data[3], 1 = increase (R96). -/
def envUpOf (d : Byte) : Bool := d.getLsbD 3

/-- `ENV` data[2:0] (R96). -/
def envPeriodOf (d : Byte) : BitVec 3 := d.extractLsb' 0 3

/-- `FREQHI` and `TRIG4` data[7] (R97). -/
def triggerOf (d : Byte) : Bool := d.getLsbD 7

/-- `FREQHI` and `TRIG4` data[6] (R97). -/
def lenEnableOf (d : Byte) : Bool := d.getLsbD 6

/-- `FREQHI` data[2:0], the frequency bits 10:8 (R97). -/
def freqHighOf (d : Byte) : BitVec 3 := d.extractLsb' 0 3

/-- `DACEN3` data[7] (R99). -/
def dacOf (d : Byte) : Bool := d.getLsbD 7

/-- `LEVEL3` data[6:5] (R100). -/
def levelOf (d : Byte) : BitVec 2 := d.extractLsb' 5 2

/-- `MASTEREN` data[7] (R104). -/
def masterOf (d : Byte) : Bool := d.getLsbD 7

/-- The first sample of a wave byte, data[7:4] (R105). -/
def highNibble (d : Byte) : BitVec 4 := d.extractLsb' 4 4

/-- The second sample of a wave byte, data[3:0] (R105). -/
def lowNibble (d : Byte) : BitVec 4 := d.extractLsb' 0 4

/-- A trigger byte with bit 7 clear: what the bulk pass dispatches (R181). -/
def withoutTrigger (d : Byte) : Byte := d &&& 0x7F#8

/-- A trigger byte with bit 7 set: what the re-trigger pass dispatches (R182). -/
def withTrigger (d : Byte) : Byte := d ||| 0x80#8

/-! ## Frequency -/

/-- A frequency-low write: bits 7:0 replaced, bit 11 cleared (R124). -/
def withFreqLow (f : BitVec 12) (d : Byte) : BitVec 12 := (f &&& 0x700#12) ||| d.setWidth 12

/-- A frequency-high write: bits 10:8 replaced, bit 11 cleared (R125). -/
def withFreqHigh (f : BitVec 12) (d : Byte) : BitVec 12 :=
  (f &&& 0x0FF#12) ||| ((freqHighOf d).setWidth 12 <<< 8)

/-- The frequency after one sweep step, in exact arithmetic (R203). DEDUCED (log entry 30): R216's last sentence says that a
sweep down by shift 1 reaches 0; R203's step leaves 1 at 1, for 1 − (1 >> 1) = 1, and is followed. -/
def sweptFreq (f : BitVec 12) (shift : BitVec 3) (down : Bool) : Nat :=
  if down then f.toNat - (f.toNat >>> shift.toNat) else f.toNat + (f.toNat >>> shift.toNat)

/-! ## The noise word, as C reads it (R161) -/

/-- `shift = w[7:4]`. -/
def noiseShift (w : BitVec 16) : BitVec 4 := w.extractLsb' 4 4

/-- `width7 = w[3]`. -/
def noiseWidth7 (w : BitVec 16) : Bool := w.getLsbD 3

/-- The ratio, counted in halves: 2 * w[2:0], or 1 (the ratio 1/2) for the reserved code 0. -/
def noiseRatioHalves (w : BitVec 16) : Nat :=
  if w.extractLsb' 0 3 = 0#3 then 1 else 2 * (w.extractLsb' 0 3).toNat

/-! ## Wave conversion -/

/-- `WAVE_TABLE[n]` (R230). -/
def waveSample (cfg : Config) (n : BitVec 4) : Byte := cfg.waveTable[n.toNat]

/-! ## Reload values. Products are exact and divided afterwards (R12, R215). -/

/-- `MAXLEN[i]` (R10, R130). -/
def maxLen : Chan → Nat
  | .c0 => 64
  | .c1 => 64
  | .c2 => 256
  | .c3 => 64

/-- `LEN_DIV` (R10). -/
def lengthClockDivisor : Nat := 256

/-- `LenReload(i)` for the length data `len` (R130). -/
def lenReload (cfg : Config) (i : Chan) (len : Nat) : Int :=
  ((maxLen i - len) * cfg.clockSpeed / lengthClockDivisor : Nat)

/-- `envPeriod * CLOCK_SPEED / 64` (R142, R206). -/
def envReload (cfg : Config) (period : BitVec 3) : Int :=
  (period.toNat * cfg.clockSpeed / 64 : Nat)

/-- `SweepPeriod(t) = CLOCK_SPEED / (128 / t)`, for t in 1..7 (R200, R203). -/
def sweepPeriod (cfg : Config) (time : BitVec 3) : Int :=
  (cfg.clockSpeed / (128 / time.toNat) : Nat)

/-- One envelope step on the volume, clamped to 0..15 (R206). -/
def envStepVol (up : Bool) (vol : BitVec 4) : BitVec 4 :=
  BitVec.ofInt 4 (min (max ((vol.toNat : Int) + (if up then 1 else -1)) 0) 15)

end Sys2Proof.Machine
end

