-- ==== Sys2Proof/Machine/Flags.lean ====
section
/-! DEFINITION. The flags and how they are computed: the bits of the channel-on mask (R36), the pan bits (R24), the test
for a changed channel (R121), the frame flip (R293). GYSND has no condition codes (R300). -/

namespace Sys2Proof.Machine

/-- Bit `i` of an on mask (R36). -/
def maskBit (m : BitVec 4) (i : Chan) : Bool := m.getLsbD i.index

/-- The on mask with bit `i` set to `b` and the other bits as they are (R121, R288). -/
def withMaskBit (m : BitVec 4) (i : Chan) (b : Bool) : BitVec 4 :=
  if b then m ||| (1#4 <<< i.index) else m &&& ~~~(1#4 <<< i.index)

/-- `pan = routing[i+4] : routing[i]`, bit 1 left and bit 0 right (R24, R172). -/
def panOf (routing : Byte) (i : Chan) : BitVec 2 :=
  BitVec.ofBool (routing.getLsbD (i.index + 4)) ++ BitVec.ofBool (routing.getLsbD i.index)

/-- A flag as the word it is committed as: 0 or 1 (R35). -/
def flagWord (b : Bool) : Word := if b then 1#32 else 0#32

/-- Is the frame-flip pair out of phase (R42, R251)? -/
def outOfPhase (b : SharedBlock) : Bool := b.producerFlip != b.consumerFlip

end Sys2Proof.Machine
end

