-- ==== Sys2Proof/Machine/Shared.lean ====
section
/-! DEFINITION. The shared blocks and the byte memories: reading and writing a field (R35), the block layout and its byte
image (R61, R64), the physical memory map (R60, R65), and the sparse byte memory. -/

namespace Sys2Proof.Machine

/-! ## Per-channel values -/

/-- The value of channel `i`. -/
def PerChan.get {α : Type} (q : PerChan α) : Chan → α
  | .c0 => q.c0
  | .c1 => q.c1
  | .c2 => q.c2
  | .c3 => q.c3

/-- The values with channel `i`'s replaced. -/
def PerChan.set {α : Type} (q : PerChan α) (i : Chan) (v : α) : PerChan α :=
  match i with
  | .c0 => { q with c0 := v }
  | .c1 => { q with c1 := v }
  | .c2 => { q with c2 := v }
  | .c3 => { q with c3 := v }

/-! ## Fields -/

/-- A field's value, zero-extended (R35). -/
def SharedBlock.get (b : SharedBlock) : Field → Word
  | .onMask => b.onMask.setWidth 32
  | .masterVolume => b.masterVolume.setWidth 32
  | .routing => b.routing.setWidth 32
  | .hyperSync => flagWord b.hyperSync
  | .vol i => (b.vol.get i).setWidth 32
  | .freq i => (b.freq.get i).setWidth 32
  | .pan i => (b.pan.get i).setWidth 32
  | .duty i => (b.duty.get i).setWidth 32
  | .message => b.message
  | .sentCount => b.sentCount
  | .recvCount => b.recvCount
  | .syncCycle => b.syncCycle
  | .consumerCycle => b.consumerCycle
  | .producerFlip => flagWord b.producerFlip
  | .consumerFlip => flagWord b.consumerFlip
  | .flipInProgress => flagWord b.flipInProgress
  | .transferInProgress => flagWord b.transferInProgress
  | .sampleBufPtr => b.sampleBufPtr

/-- One atomic write of a whole field, at the field's own width (R62, R66). -/
def SharedBlock.put (b : SharedBlock) (f : Field) (v : Word) : SharedBlock :=
  match f with
  | .onMask => { b with onMask := v.setWidth 4 }
  | .masterVolume => { b with masterVolume := v.setWidth 8 }
  | .routing => { b with routing := v.setWidth 8 }
  | .hyperSync => { b with hyperSync := v.getLsbD 0 }
  | .vol i => { b with vol := b.vol.set i (v.setWidth 8) }
  | .freq i => { b with freq := b.freq.set i (v.setWidth 16) }
  | .pan i => { b with pan := b.pan.set i (v.setWidth 8) }
  | .duty i => { b with duty := b.duty.set i (v.setWidth 8) }
  | .message => { b with message := v }
  | .sentCount => { b with sentCount := v }
  | .recvCount => { b with recvCount := v }
  | .syncCycle => { b with syncCycle := v }
  | .consumerCycle => { b with consumerCycle := v }
  | .producerFlip => { b with producerFlip := v.getLsbD 0 }
  | .consumerFlip => { b with consumerFlip := v.getLsbD 0 }
  | .flipInProgress => { b with flipInProgress := v.getLsbD 0 }
  | .transferInProgress => { b with transferInProgress := v.getLsbD 0 }
  | .sampleBufPtr => { b with sampleBufPtr := v }

/-- A field's single writer (R35, R50). -/
def Field.owner : Field → Owner
  | .recvCount | .consumerCycle | .consumerFlip | .flipInProgress | .transferInProgress => .consumer
  | .syncCycle => .handshake
  | .onMask | .masterVolume | .routing | .hyperSync | .vol _ | .freq _ | .pan _ | .duty _ | .message
  | .sentCount | .producerFlip | .sampleBufPtr => .producer

/-! ## Layout (R64) -/

/-- The offset of a field from the block's base. -/
def Field.offset : Field → Nat
  | .onMask => 0x00
  | .masterVolume => 0x01
  | .routing => 0x02
  | .hyperSync => 0x03
  | .vol i => 0x04 + i.index
  | .freq i => 0x08 + 2 * i.index
  | .pan i => 0x10 + i.index
  | .duty i => 0x14 + i.index
  | .message => 0x18
  | .sentCount => 0x1C
  | .recvCount => 0x20
  | .syncCycle => 0x24
  | .consumerCycle => 0x28
  | .producerFlip => 0x2C
  | .consumerFlip => 0x2D
  | .flipInProgress => 0x2E
  | .transferInProgress => 0x2F
  | .sampleBufPtr => 0x30

/-- The size of a field in bytes. -/
def Field.size : Field → Nat
  | .onMask | .masterVolume | .routing | .hyperSync | .vol _ | .pan _ | .duty _ | .producerFlip
  | .consumerFlip | .flipInProgress | .transferInProgress => 1
  | .freq _ => 2
  | .message | .sentCount | .recvCount | .syncCycle | .consumerCycle | .sampleBufPtr => 4

/-- Every field, in the order of the layout. -/
def allFields : List Field :=
  [.onMask, .masterVolume, .routing, .hyperSync,
   .vol .c0, .vol .c1, .vol .c2, .vol .c3, .freq .c0, .freq .c1, .freq .c2, .freq .c3,
   .pan .c0, .pan .c1, .pan .c2, .pan .c3, .duty .c0, .duty .c1, .duty .c2, .duty .c3,
   .message, .sentCount, .recvCount, .syncCycle, .consumerCycle, .producerFlip, .consumerFlip,
   .flipInProgress, .transferInProgress, .sampleBufPtr]

/-- The size of a block in bytes. -/
def blockSize : Nat := 0x34

/-- The size of the Sample Buffer in bytes (R65). -/
def sampleBufSize : Nat := 32

/-- The field that a whole aligned access of `bytes` bytes at offset `off` reaches (R62). -/
def fieldAt (off bytes : Nat) : Option Field :=
  allFields.find? fun f => f.offset == off && f.size == bytes

/-- The field that holds the byte at offset `off`. -/
def fieldCovering (off : Nat) : Option Field :=
  allFields.find? fun f => decide (f.offset ≤ off) && decide (off < f.offset + f.size)

/-- Byte `k` of a word, byte 0 holding bits 7:0: little-endian (R61). -/
def byteOfWord (v : Word) (k : Nat) : Byte := v.extractLsb' (8 * k) 8

/-- The byte image of a block at offset `off` (R61, R64). -/
def SharedBlock.byteAt (b : SharedBlock) (off : Nat) : Option Byte :=
  (fieldCovering off).map fun f => byteOfWord (b.get f) (off - f.offset)

/-! ## Sparse byte memory -/

/-- The byte at `a`: an unlisted address reads 0x00. -/
def Memory.read (m : Memory) (a : Nat) : Byte :=
  match m with
  | [] => 0#8
  | c :: rest => if c.1 = a then c.2 else Memory.read rest a

/-- Write one byte, keeping the canonical form: an entry that would hold 0x00 is dropped. -/
def Memory.write (m : Memory) (a : Nat) (v : Byte) : Memory :=
  match m with
  | [] => if v = 0#8 then [] else [(a, v)]
  | c :: rest =>
    if a < c.1 then (if v = 0#8 then c :: rest else (a, v) :: c :: rest)
    else if c.1 = a then (if v = 0#8 then rest else (a, v) :: rest)
    else c :: Memory.write rest a v

/-- The canonical form: addresses strictly rising, no entry equal to what an unlisted address reads as. -/
def Memory.wf : Memory → Bool
  | [] => true
  | c :: rest => c.2 != 0#8 && rest.all (fun x => decide (c.1 < x.1)) && Memory.wf rest

/-! ## The memory map (R60, R64, R65) -/

/-- The place an address falls in, with the offset in it. -/
def locate (cfg : Config) (addr : Nat) : Option (Region × Nat) :=
  if cfg.rsbAddr.toNat ≤ addr ∧ addr < cfg.rsbAddr.toNat + blockSize then
    some (.realBlock, addr - cfg.rsbAddr.toNat)
  else if cfg.dsbAddr.toNat ≤ addr ∧ addr < cfg.dsbAddr.toNat + blockSize then
    some (.dummyBlock, addr - cfg.dsbAddr.toNat)
  else if cfg.sampleBufAddr.toNat ≤ addr ∧ addr < cfg.sampleBufAddr.toNat + sampleBufSize then
    some (.sampleBuffer, addr - cfg.sampleBufAddr.toNat)
  else none

/-- The read of one byte of memory at a physical address: a byte of the real block, of the dummy block or of the Sample
Buffer; none where no memory is. -/
def State.memByte (s : State) (addr : Nat) : Option Byte :=
  match locate s.cfg addr with
  | some (.realBlock, off) => s.rsb.byteAt off
  | some (.dummyBlock, off) => s.dsb.byteAt off
  | some (.sampleBuffer, k) => some (s.sampleBuf.read k)
  | none => none

/-- `n` bytes from `a` on, the first one least significant (R61). -/
def Memory.readBytes (m : Memory) (a : Nat) : Nat → Nat
  | 0 => 0
  | n + 1 => (m.read a).toNat + 256 * m.readBytes (a + 1) n

/-- Write `n` bytes from `a` on, the least significant one first (R61). -/
def Memory.writeBytes (m : Memory) (a v : Nat) : Nat → Memory
  | 0 => m
  | n + 1 => (m.write a (BitVec.ofNat 8 v)).writeBytes (a + 1) (v / 256) n

/-- `MemRead(addr, n)` (R13): one whole field of a block, or `n` bytes of the Sample Buffer; none for a partial or
misaligned access to a field (R62) and where no memory is. DESIGN CHOICE (log entry 29): an access to the buffer takes up to
four bytes, is little-endian, needs no alignment, and does not reach over the buffer's end. -/
def State.memRead (s : State) (addr bytes : Nat) : Option Word :=
  match locate s.cfg addr with
  | some (.realBlock, off) => (fieldAt off bytes).map s.rsb.get
  | some (.dummyBlock, off) => (fieldAt off bytes).map s.dsb.get
  | some (.sampleBuffer, k) =>
    if bytes ≤ 4 ∧ k + bytes ≤ sampleBufSize then some (BitVec.ofNat 32 (s.sampleBuf.readBytes k bytes)) else none
  | none => none

/-- `MemWrite(addr, n, v)` (R13): one atomic write of a whole field of a block, or of `n` bytes of the Sample Buffer; none
for a partial or misaligned access to a field (R62) and where no memory is. Who may write what is R50's, in `consumerWrite`.
DESIGN CHOICE (log entry 29): the buffer as in `memRead`. -/
def State.memWrite (s : State) (addr bytes : Nat) (v : Word) : Option State :=
  match locate s.cfg addr with
  | some (.realBlock, off) => (fieldAt off bytes).map fun f => { s with rsb := s.rsb.put f v }
  | some (.dummyBlock, off) => (fieldAt off bytes).map fun f => { s with dsb := s.dsb.put f v }
  | some (.sampleBuffer, k) =>
    if bytes ≤ 4 ∧ k + bytes ≤ sampleBufSize then
      some { s with sampleBuf := s.sampleBuf.writeBytes k v.toNat bytes }
    else none
  | none => none

/-! ## The admitted configurations (R10, R62, R215, R309 (f)) -/

/-- Do two ranges of addresses share no byte? -/
def disjointRanges (a m b n : Nat) : Bool := decide (a + m ≤ b) || decide (b + n ≤ a)

/-- The configuration is inside its admitted range. That the Sample Buffer overlaps no block, and that each range ends
inside the 32-bit space, is this model's reading (log entry 9). -/
def configAdmitted (cfg : Config) : Bool :=
  decide (64 ≤ cfg.clockSpeed ∧ cfg.clockSpeed ≤ 0x800000
    ∧ 1 ≤ cfg.dropThreshold ∧ 1 ≤ cfg.queueCapacity
    ∧ cfg.rsbAddr.toNat % 4 = 0 ∧ cfg.dsbAddr.toNat % 4 = 0 ∧ cfg.sampleBufAddr.toNat % 4 = 0
    ∧ cfg.rsbAddr.toNat + blockSize ≤ 0x100000000 ∧ cfg.dsbAddr.toNat + blockSize ≤ 0x100000000
    ∧ cfg.sampleBufAddr.toNat + sampleBufSize ≤ 0x100000000
    ∧ disjointRanges cfg.rsbAddr.toNat blockSize cfg.dsbAddr.toNat blockSize = true
    ∧ disjointRanges cfg.rsbAddr.toNat blockSize cfg.sampleBufAddr.toNat sampleBufSize = true
    ∧ disjointRanges cfg.dsbAddr.toNat blockSize cfg.sampleBufAddr.toNat sampleBufSize = true)

end Sys2Proof.Machine
end

