-- ==== Sys2Proof/Machine/Ops.lean ====
section
/-! DEFINITION. The named operations every rule is written over (R14): reading and writing a channel record, `Commit`,
`reportNext`, `signal`, `diag`, the consumer's moves, `Enqueue`, `SyncSend`, `Send`, and the guard of an operation.
Taking an exception has no place here: GYSND raises none and has no trap entry or return (R300, R315). -/

namespace Sys2Proof.Machine

/-- How an operation ends. -/
abbrev Result := Host.Outcome State Fault Refusal

/-- Run `k` on the next state; a fault or a refusal ends the run. -/
def andThen (r : Result) (k : State → Result) : Result :=
  match r with
  | .next s => k s
  | .fault f => .fault f
  | .refused x => .refused x

/-! ## Channel records (R13, R20) -/

/-- The common part of `ch[i]`. -/
def State.voice (s : State) : Chan → Voice
  | .c0 => s.ch0.voice
  | .c1 => s.ch1.voice
  | .c2 => s.ch2.voice
  | .c3 => s.ch3.voice

/-- Replace the common part of `ch[i]`. -/
def setVoice (i : Chan) (v : Voice) (s : State) : State :=
  match i with
  | .c0 => { s with ch0 := { s.ch0 with voice := v } }
  | .c1 => { s with ch1 := { s.ch1 with voice := v } }
  | .c2 => { s with ch2 := { s.ch2 with voice := v } }
  | .c3 => { s with ch3 := { s.ch3 with voice := v } }

/-- The envelope of `ch[i]`; channel 2 has none (R20). -/
def State.env (s : State) : Chan → Option Envelope
  | .c0 => some s.ch0.env
  | .c1 => some s.ch1.env
  | .c2 => none
  | .c3 => some s.ch3.env

/-- Replace the envelope of `ch[i]`; channel 2 has none. -/
def setEnv (i : Chan) (e : Envelope) (s : State) : State :=
  match i with
  | .c0 => { s with ch0 := { s.ch0 with env := e } }
  | .c1 => { s with ch1 := { s.ch1 with env := e } }
  | .c2 => s
  | .c3 => { s with ch3 := { s.ch3 with env := e } }

/-- The length data of `ch[i]` as a number. -/
def State.len (s : State) : Chan → Nat
  | .c0 => s.ch0.len.toNat
  | .c1 => s.ch1.len.toNat
  | .c2 => s.ch2.len.toNat
  | .c3 => s.ch3.len.toNat

/-- `zext_8(ch[i].vol)` (R37). -/
def State.vol (s : State) : Chan → Byte
  | .c0 => s.ch0.env.vol.setWidth 8
  | .c1 => s.ch1.env.vol.setWidth 8
  | .c2 => s.ch2.vol.setWidth 8
  | .c3 => s.ch3.env.vol.setWidth 8

/-- `zext_16(ch[i].freq)` (R37). -/
def State.freq (s : State) : Chan → BitVec 16
  | .c0 => s.ch0.freq.setWidth 16
  | .c1 => s.ch1.freq.setWidth 16
  | .c2 => s.ch2.freq.setWidth 16
  | .c3 => s.ch3.freq.setWidth 16

/-- `zext_8(ch[i].duty)`; channels 2 and 3 have none (R20, R37). -/
def State.duty (s : State) : Chan → Byte
  | .c0 => s.ch0.duty.setWidth 8
  | .c1 => s.ch1.duty.setWidth 8
  | .c2 => 0#8
  | .c3 => 0#8

/-- `(ch[i].on, ch[i].vol, ch[i].freq, ch[i].duty)`, the values R121 compares. -/
def State.params (s : State) (i : Chan) : Params := ⟨(s.voice i).on, s.vol i, s.freq i, s.duty i⟩

/-- `ch[i].on <- b` (R21). -/
def setOn (i : Chan) (b : Bool) (s : State) : State := setVoice i { s.voice i with on := b } s

/-- `ch[i].lenCounter <- LenReload(i)` (R130). -/
def reloadLength (i : Chan) (s : State) : State :=
  setVoice i { s.voice i with lenCounter := lenReload s.cfg i (s.len i) } s

/-! ## The shared block P writes (R35, R288) -/

/-- `SB`: the block P currently targets (R13, R35). -/
def State.sb (s : State) : SharedBlock :=
  match s.target with
  | .real => s.rsb
  | .dummy => s.dsb

/-- `Commit(field, v)`, the gated write (R14, R288). -/
def commit (f : Field) (v : Word) (s : State) : State :=
  if s.soundEnabled then
    match s.target with
    | .real => { s with rsb := s.rsb.put f v }
    | .dummy => { s with dsb := s.dsb.put f v }
  else s

/-- `Commit(onMask[i], b)`: one write of the whole mask, the other bits unchanged (R121, R288). -/
def commitOnBit (i : Chan) (b : Bool) (s : State) : State :=
  commit .onMask ((withMaskBit s.sb.onMask i b).setWidth 32) s

/-! ## Reports and events -/

/-- `reportNext(n)` (R212). -/
def reportNext (n : Int) (s : State) : State := { s with nextEvent := min s.nextEvent n }

/-- Put out one event to the host, after the earlier ones (R46, R298). -/
def emit (e : HostEvent) (s : State) : State := { s with events := s.events ++ [e] }

/-- `signal Deactivate(i)` (R305): ungated. -/
def signalDeactivate (i : Chan) (s : State) : State := emit (.deactivate i) s

/-- The code's counter, one higher modulo 2^32 (R301). -/
def DiagCounts.bump (d : DiagCounts) : DiagCode → DiagCounts
  | .queueFull => { d with queueFull := d.queueFull + 1 }
  | .thresholdDrop => { d with thresholdDrop := d.thresholdDrop + 1 }
  | .syncFallback => { d with syncFallback := d.syncFallback + 1 }
  | .syncAbort => { d with syncAbort := d.syncAbort + 1 }

/-- `diag(code)`: the event and its counter, and nothing else (R301). -/
def diag (c : DiagCode) (s : State) : State :=
  emit (.diag c) { s with diagCount := s.diagCount.bump c }

/-! ## The consumer (section 4 of 44_sync_messaging.md) -/

/-- The second step of Dequeue: count the removed word (R262). This is what every message instruction does. -/
def countMessage (s : State) : State :=
  { s with
    rsb := s.rsb.put .recvCount (s.rsb.recvCount + 1)
    consumer := { s.consumer with dequeued := none } }

/-- The first step of Dequeue: the head word is removed (R262). Not made again while a removed word is uncounted. -/
def consumerDequeue (s : State) : State :=
  match s.consumer.dequeued, s.queue with
  | none, w :: rest => { s with queue := rest, consumer := { s.consumer with dequeued := some w } }
  | _, _ => s

/-- The second step of Dequeue (R262); a word that is no form of R111 is a fault of the environment (R309 (d)). -/
def consumerFinishDequeue (s : State) : Result :=
  match s.consumer.dequeued with
  | some w =>
    match messageForm w with
    | some _ => .next (countMessage s)
    | none => .fault (.reservedMessage w)
  | none => .next s

/-- The first step of Acknowledge: the target is recorded as C's position (R263). Not made again while the second is due. -/
def consumerAcknowledge (s : State) : State :=
  if s.consumer.acknowledging = false ∧ s.rsb.syncCycle ≠ sentinel then
    { s with
      rsb := s.rsb.put .consumerCycle s.rsb.syncCycle
      consumer := { s.consumer with acknowledging := true } }
  else s

/-- The second step of Acknowledge: the handshake cell goes back to SENTINEL (R263). -/
def consumerFinishAcknowledge (s : State) : State :=
  if s.consumer.acknowledging then
    { s with
      rsb := s.rsb.put .syncCycle sentinel
      consumer := { s.consumer with acknowledging := false } }
  else s

/-- Position (R264). -/
def consumerPosition (x : Word) (s : State) : State := { s with rsb := s.rsb.put .consumerCycle x }

/-- FlipBegin (R265). -/
def consumerFlipBegin (s : State) : State :=
  if s.rsb.flipInProgress then s else { s with rsb := s.rsb.put .flipInProgress (flagWord true) }

/-- The first step of FlipEnd (R265). Not made again while a later one is due. -/
def consumerFlipEnd (s : State) : State :=
  if s.rsb.flipInProgress ∧ s.consumer.flipStage = .idle then
    { s with
      rsb := s.rsb.put .consumerFlip (flagWord !s.rsb.consumerFlip)
      consumer := { s.consumer with flipStage := .clearCycle } }
  else s

/-- The later steps of FlipEnd (R265). -/
def consumerContinueFlip (s : State) : State :=
  match s.consumer.flipStage with
  | .idle => s
  | .clearCycle =>
    { s with
      rsb := s.rsb.put .consumerCycle 0
      consumer := { s.consumer with flipStage := .clearProgress } }
  | .clearProgress =>
    { s with
      rsb := s.rsb.put .flipInProgress (flagWord false)
      consumer := { s.consumer with flipStage := .idle } }

/-- The transfer flag (R266). -/
def consumerTransfer (b : Bool) (s : State) : State :=
  { s with rsb := s.rsb.put .transferInProgress (flagWord b) }

/-- A read by the consumer at an address, outside the protocol's own reads (R62, R267): it changes nothing. DESIGN CHOICE
(log entries 19, 29): a read of the Sample Buffer takes any number of its bytes; over its end no memory is. -/
def consumerRead (addr bytes : Nat) (s : State) : Result :=
  match locate s.cfg addr with
  | some (.realBlock, off) =>
    match fieldAt off bytes with
    | some _ => .next s
    | none => .refused .partialAccess
  | some (.dummyBlock, _) => .fault .dummyBlockRead
  | some (.sampleBuffer, k) => if k + bytes ≤ sampleBufSize then .next s else .fault .noSuchAddress
  | none => .fault .noSuchAddress

/-- A write by the consumer to the whole field `f`. A field of P, and any value but SENTINEL in `syncCycle`, has the wrong
writer (R50, R309 (c)). A write to a field of C's own, and SENTINEL in `syncCycle`, is the step of R262 to R266 that writes
that value there, made when it is due and else not made. DESIGN CHOICE (log entries 10, 19): a write of `consumerCycle` is the
flip's clear when that is due, else an acknowledgment when it writes the target, else Position. -/
def consumerPut (f : Field) (v : Word) (s : State) : Result :=
  match f with
  | .recvCount => if v = s.rsb.recvCount + 1 then consumerFinishDequeue s else .next s
  | .syncCycle => if v = sentinel then .next (consumerFinishAcknowledge s) else .fault .wrongWriter
  | .consumerCycle =>
    if s.consumer.flipStage = .clearCycle ∧ v = 0 then .next (consumerContinueFlip s)
    else if s.consumer.acknowledging = false ∧ s.rsb.syncCycle ≠ sentinel ∧ v = s.rsb.syncCycle then
      .next (consumerAcknowledge s)
    else .next (consumerPosition v s)
  | .consumerFlip => if v = flagWord !s.rsb.consumerFlip then .next (consumerFlipEnd s) else .next s
  | .flipInProgress =>
    if v = 1 then .next (consumerFlipBegin s)
    else if v = 0 ∧ s.consumer.flipStage = .clearProgress then .next (consumerContinueFlip s)
    else .next s
  | .transferInProgress => if v = 0 ∨ v = 1 then .next (consumerTransfer (v = 1) s) else .next s
  | .onMask | .masterVolume | .routing | .hyperSync | .vol _ | .freq _ | .pan _ | .duty _ | .message
  | .sentCount | .producerFlip | .sampleBufPtr => .fault .wrongWriter

/-- A write by the consumer at an address (R50, R62, R309 (c) and (e)); of `v`, the bytes that the field has. -/
def consumerWrite (addr bytes : Nat) (v : Word) (s : State) : Result :=
  match locate s.cfg addr with
  | some (.realBlock, off) =>
    match fieldAt off bytes with
    | some f => consumerPut f (BitVec.ofNat 32 (v.toNat % 256 ^ bytes)) s
    | none => .refused .partialAccess
  | some (.dummyBlock, _) => .fault .wrongWriter
  | some (.sampleBuffer, _) => .fault .wrongWriter
  | none => .fault .noSuchAddress

/-- One atomic step of the consumer (R262 to R267). DESIGN CHOICE: a move whose condition does not hold is not made (log
entry 10); moves of different kinds may overlap, and a move of one kind is not started again while one of that kind is half
done (log entry 14). -/
def consumerMove (m : ConsumerMove) (s : State) : Result :=
  match m with
  | .dequeue => .next (consumerDequeue s)
  | .finishDequeue => consumerFinishDequeue s
  | .acknowledge => .next (consumerAcknowledge s)
  | .finishAcknowledge => .next (consumerFinishAcknowledge s)
  | .position x => .next (consumerPosition x s)
  | .flipBegin => .next (consumerFlipBegin s)
  | .flipEnd => .next (consumerFlipEnd s)
  | .continueFlip => .next (consumerContinueFlip s)
  | .transfer b => .next (consumerTransfer b s)
  | .read addr bytes => consumerRead addr.toNat bytes s
  | .write addr bytes v => consumerWrite addr.toNat bytes v s

/-- Several consumer steps in a row. Before the first `INIT` the consumer may make none (R340). -/
def consumerMoves : List ConsumerMove → State → Result
  | [], s => .next s
  | m :: ms, s =>
    if s.started then andThen (consumerMove m s) (consumerMoves ms)
    else .fault .consumerBeforeInit

/-- An opportunity between two atomic steps of P: the consumer makes the steps that State lists for it, or none when it
lists nothing (section 4 of 44_sync_messaging.md, R67). -/
def consumerTurn (s : State) : Result :=
  match s.turns with
  | [] => .next s
  | ms :: rest => consumerMoves ms { s with turns := rest }

/-- Is a move of the consumer half done (R281)? -/
def State.consumerActive (s : State) : Bool :=
  s.consumer.dequeued.isSome || s.consumer.acknowledging || decide (s.consumer.flipStage ≠ .idle)

/-! ## Queue admission (R247, R248) -/

/-- `(RSB.sentCount − RSB.recvCount) mod 2^32` (R247). -/
def State.outstanding (s : State) : Word := s.rsb.sentCount - s.rsb.recvCount

/-- `Enqueue(w)` (R248). Each line of the rule is one atomic step, with an opportunity for the consumer before it. -/
def enqueue (w : Word) (s : State) : Result :=
  andThen (consumerTurn s) fun s =>
  if s.cfg.dropThreshold ≤ s.outstanding.toNat then .next (diag .thresholdDrop s)
  else
    andThen (consumerTurn s) fun s =>
    if s.queue.length = s.cfg.queueCapacity then .next (diag .queueFull s)
    else
      andThen (consumerTurn s) fun s =>
      andThen (consumerTurn { s with rsb := s.rsb.put .message w }) fun s =>
      andThen (consumerTurn { s with rsb := s.rsb.put .sentCount (s.rsb.sentCount + 1) }) fun s =>
      .next { s with queue := s.queue ++ [w] }

/-! ## Cycle-accurate delivery (R250 to R255) -/

/-- The host inputs of one `SyncSend` (R45): the next listed draw, or the free values when none is listed. -/
def State.draw (s : State) : HostDraw :=
  match s.draws with
  | d :: _ => d
  | [] => ⟨Config.freeCyclesSinceFrame s.drawCount, Config.freeDoubleSpeed s.drawCount⟩

/-- The state after the draw. -/
def afterDraw (s : State) : State :=
  match s.draws with
  | _ :: rest => { s with draws := rest }
  | [] => { s with drawCount := s.drawCount + 1 }

/-- `c = cyclesSinceFrame >> doubleSpeed` (R250). -/
def targetCycle (d : HostDraw) : Word := if d.doubleSpeed then d.cyclesSinceFrame >>> 1 else d.cyclesSinceFrame

/-- Immediate delivery with its diagnostic (R251). -/
def fallBack (w : Word) (s : State) : Result := enqueue w (diag .syncFallback s)

/-- One look of the wait (R253): the acknowledgment wins (R254); else the transfer flag aborts (R255); else P holds. -/
def await (w : Word) (s : State) : Result :=
  andThen (consumerTurn s) fun s =>
  if s.rsb.syncCycle = sentinel then enqueue w { s with held := none }
  else if s.rsb.transferInProgress then
    andThen (consumerTurn { s with held := none }) fun s =>
    enqueue w (diag .syncAbort { s with rsb := s.rsb.put .syncCycle sentinel })
  else .next { s with held := some ⟨w, []⟩ }

/-- `SyncSend(w)` (R250): the draw, the four tests in one pass (R251), the target (R252), the wait (R253). -/
def syncSend (w : Word) (s : State) : Result :=
  let c := targetCycle s.draw
  andThen (consumerTurn (afterDraw s)) fun s =>
  if c ≤ s.rsb.consumerCycle ∨ c = sentinel then fallBack w s
  else
    andThen (consumerTurn s) fun s =>
    if s.rsb.flipInProgress then fallBack w s
    else
      andThen (consumerTurn s) fun s =>
      if outOfPhase s.rsb then fallBack w s
      else
        andThen (consumerTurn s) fun s =>
        await w { s with rsb := s.rsb.put .syncCycle c }

/-- `Send(kind, chan)` (R245) with its gates (R246). -/
def send (k : MsgKind) (c : MsgChan) (s : State) : Result :=
  if s.soundEnabled = false ∨ s.muted = true then .next s
  else if s.accurateSync then syncSend (messageWord k c) s
  else enqueue (messageWord k c) s

/-! ## The guard of an operation (R309) -/

/-- H issues an operation other than `INIT`: refused in a configuration outside its range and before the first `INIT`
(R309 (b) and (f), R330), a fault while P holds (R298, R343). -/
def issue (s : State) (k : State → Result) : Result :=
  if configAdmitted s.cfg = false then .refused .badConfiguration
  else if s.started = false then .refused .beforeInit
  else if s.held.isSome then .fault .reentrantOperation
  else k s

/-! ## The host's register storage (R44, R341) -/

/-- `io(a)` (R44). -/
def State.ioByte (s : State) (a : Byte) : Byte := s.io.read a.toNat

/-- H stores a byte in its register storage, which has the addresses 0x10..0x3F and no others (R60). -/
def hostStore (a d : Byte) (s : State) : Result :=
  if 0x10 ≤ a.toNat ∧ a.toNat ≤ 0x3F then .next { s with io := s.io.write a.toNat d }
  else .fault .noSuchAddress

end Sys2Proof.Machine
end

