-- ==== Sys2Proof/Machine/Channel.lean ====
section
/-! DEFINITION. The registers of the four channels (40_register_dispatcher.md): the bodies of R122 to R129, R150, R152 and
R160, the trigger (R140 to R145) and the frame of every channel write (R121). -/

namespace Sys2Proof.Machine

/-! ## The trigger (R140) -/

/-- The sweep counter a trigger loads (R143): one period when swept, else 0. -/
def triggerSweepCounter (s : State) : Int :=
  if s.ch0.sweep.time ≠ 0#3 then sweepPeriod s.cfg s.ch0.sweep.time else 0

/-- The envelope part of a trigger: volume and counter reloaded (R142); channel 2 has no envelope. -/
def triggerEnvelope (i : Chan) (s : State) : State :=
  match s.env i with
  | some e => setEnv i { e with vol := e.init, counter := envReload s.cfg e.period } s
  | none => s

/-- The sweep part of a trigger, channel 0 only (R143). -/
def triggerSweep (i : Chan) (s : State) : State :=
  match i with
  | .c0 => { s with ch0 := { s.ch0 with sweep := { s.ch0.sweep with counter := triggerSweepCounter s } } }
  | .c1 | .c2 | .c3 => s

/-- `TriggerLocal(i)` (R140): length counter (R141), envelope (R142), sweep (R143), on flag (R144). -/
def triggerLocal (i : Chan) (s : State) : State :=
  setOn i true (triggerSweep i (triggerEnvelope i (reloadLength i s)))

/-! ## The frame of a channel write (R121) -/

/-- The commits of volume, frequency and, for channels 0 and 1, duty (R121). -/
def commitParams (i : Chan) (s : State) : State :=
  let s := commit (.vol i) ((s.vol i).setWidth 32) s
  let s := commit (.freq i) ((s.freq i).setWidth 32) s
  match i with
  | .c0 | .c1 => commit (.duty i) ((s.duty i).setWidth 32) s
  | .c2 | .c3 => s

/-- The commits of the on-bit: cleared when the write switched the channel off, set on a trigger (R121). -/
def commitOn (i : Chan) (wasOn trig : Bool) (s : State) : State :=
  let s := if wasOn && !(s.voice i).on then commitOnBit i false s else s
  if trig then commitOnBit i true s else s

/-- The report of the length counter, when the length is enabled. -/
def reportLength (i : Chan) (s : State) : State :=
  if (s.voice i).lenEnable then reportNext (s.voice i).lenCounter s else s

/-- The report of the envelope counter, when the envelope runs. -/
def reportEnvelope (i : Chan) (s : State) : State :=
  match s.env i with
  | some e => if e.period ≠ 0#3 then reportNext e.counter s else s
  | none => s

/-- The report of the sweep counter, when channel 0 sweeps. -/
def reportSweep (i : Chan) (s : State) : State :=
  match i with
  | .c0 => if s.ch0.sweep.time ≠ 0#3 then reportNext s.ch0.sweep.counter s else s
  | .c1 | .c2 | .c3 => s

/-- The next-event reports of a channel that is on (R121, R212). -/
def reportTimers (i : Chan) (s : State) : State :=
  if (s.voice i).on then reportSweep i (reportEnvelope i (reportLength i s)) else s

/-- A channel write up to its message: the body, the trigger it asks for, the commits, the reports. `r` is what the
register's body returned: the changed state and `trig`. -/
def channelUpdate (i : Chan) (wasOn : Bool) (r : State × Bool) : State :=
  reportTimers i (commitOn i wasOn r.2 (commitParams i (if r.2 then triggerLocal i r.1 else r.1)))

/-- `ChannelWrite(i, addr, data)` (R121): the update, then `Start(i)` on a trigger, else `Update(i)` when a compared value
changed, else no message. -/
def channelWrite (i : Chan) (body : State → State × Bool) (s : State) : Result :=
  let r := body s
  let t := channelUpdate i (s.voice i).on r
  if r.2 then send .start (.one i) t
  else if t.params i ≠ s.params i then send .update (.one i) t
  else .next t

/-! ## The bodies -/

/-- R122: the sweep fields; the counter is not reloaded. -/
def bodySweep1 (d : Byte) (s : State) : State × Bool :=
  ({ s with ch0 := { s.ch0 with sweep := { s.ch0.sweep with
      time := sweepTimeOf d, down := sweepDownOf d, shift := sweepShiftOf d } } }, false)

/-- R123 for channel 0: duty, length data, and the length counter reloaded. -/
def bodyLenduty1 (d : Byte) (s : State) : State × Bool :=
  (reloadLength .c0 { s with ch0 := { s.ch0 with duty := dutyOf d, len := lengthOf d } }, false)

/-- R123 for channel 1. -/
def bodyLenduty2 (d : Byte) (s : State) : State × Bool :=
  (reloadLength .c1 { s with ch1 := { s.ch1 with duty := dutyOf d, len := lengthOf d } }, false)

/-- R126: the envelope fields of `e`; volume and counter stay. -/
def envWritten (d : Byte) (e : Envelope) : Envelope :=
  { e with init := envInitOf d, up := envUpOf d, period := envPeriodOf d }

/-- R126 for channel 0. -/
def bodyEnv1 (d : Byte) (s : State) : State × Bool :=
  ({ s with ch0 := { s.ch0 with env := envWritten d s.ch0.env } }, false)

/-- R126 for channel 1. -/
def bodyEnv2 (d : Byte) (s : State) : State × Bool :=
  ({ s with ch1 := { s.ch1 with env := envWritten d s.ch1.env } }, false)

/-- R126 for channel 3. -/
def bodyEnv4 (d : Byte) (s : State) : State × Bool :=
  ({ s with ch3 := { s.ch3 with env := envWritten d s.ch3.env } }, false)

/-- R124 for channel 0: the low frequency bits. -/
def bodyFreqlo1 (d : Byte) (s : State) : State × Bool :=
  ({ s with ch0 := { s.ch0 with freq := withFreqLow s.ch0.freq d } }, false)

/-- R124 for channel 1. -/
def bodyFreqlo2 (d : Byte) (s : State) : State × Bool :=
  ({ s with ch1 := { s.ch1 with freq := withFreqLow s.ch1.freq d } }, false)

/-- R124 for channel 2. -/
def bodyFreqlo3 (d : Byte) (s : State) : State × Bool :=
  ({ s with ch2 := { s.ch2 with freq := withFreqLow s.ch2.freq d } }, false)

/-- R125 for channel 0: the high frequency bits, the length enable, the trigger. -/
def bodyFreqhi1 (d : Byte) (s : State) : State × Bool :=
  ({ s with ch0 := { s.ch0 with
      freq := withFreqHigh s.ch0.freq d, voice := { s.ch0.voice with lenEnable := lenEnableOf d } } },
    triggerOf d)

/-- R125 for channel 1. -/
def bodyFreqhi2 (d : Byte) (s : State) : State × Bool :=
  ({ s with ch1 := { s.ch1 with
      freq := withFreqHigh s.ch1.freq d, voice := { s.ch1.voice with lenEnable := lenEnableOf d } } },
    triggerOf d)

/-- R125 for channel 2, with the wave gate (R145): no trigger while the DAC is off. -/
def bodyFreqhi3 (d : Byte) (s : State) : State × Bool :=
  ({ s with ch2 := { s.ch2 with
      freq := withFreqHigh s.ch2.freq d, voice := { s.ch2.voice with lenEnable := lenEnableOf d } } },
    triggerOf d && s.ch2.dac)

/-- R150: the DAC flag; switching it off switches channel 2 off. -/
def bodyDacen3 (d : Byte) (s : State) : State × Bool :=
  ({ s with ch2 := { s.ch2 with
      dac := dacOf d, voice := { s.ch2.voice with on := s.ch2.voice.on && dacOf d } } }, false)

/-- R127: the 8-bit length data of channel 2, and its counter reloaded. -/
def bodyLen3 (d : Byte) (s : State) : State × Bool :=
  (reloadLength .c2 { s with ch2 := { s.ch2 with len := d } }, false)

/-- R152: the level code of channel 2. -/
def bodyLevel3 (d : Byte) (s : State) : State × Bool :=
  ({ s with ch2 := { s.ch2 with vol := levelOf d } }, false)

/-- R128: the 6-bit length data of channel 3, and its counter reloaded. -/
def bodyLen4 (d : Byte) (s : State) : State × Bool :=
  (reloadLength .c3 { s with ch3 := { s.ch3 with len := lengthOf d } }, false)

/-- R160: the raw polynomial byte of channel 3. -/
def bodyPoly4 (d : Byte) (s : State) : State × Bool :=
  ({ s with ch3 := { s.ch3 with freq := d } }, false)

/-- R129: the length enable and the trigger of channel 3. -/
def bodyTrig4 (d : Byte) (s : State) : State × Bool :=
  ({ s with ch3 := { s.ch3 with voice := { s.ch3.voice with lenEnable := lenEnableOf d } } }, triggerOf d)

/-! ## The register rules and the meanings -/

/-- The rule of `SWEEP1` (R122) in the frame of R121. -/
def writeSweep1 (d : Byte) (s : State) : Result := channelWrite .c0 (bodySweep1 d) s

/-- The meaning of `WRITE SWEEP1`. -/
def execWriteSweep1 (d : Byte) (s : State) : Result := issue s (writeSweep1 d)

/-- The rule of `LENDUTY1` (R123) in the frame of R121. -/
def writeLenduty1 (d : Byte) (s : State) : Result := channelWrite .c0 (bodyLenduty1 d) s

/-- The meaning of `WRITE LENDUTY1`. -/
def execWriteLenduty1 (d : Byte) (s : State) : Result := issue s (writeLenduty1 d)

/-- The rule of `ENV1` (R126) in the frame of R121. -/
def writeEnv1 (d : Byte) (s : State) : Result := channelWrite .c0 (bodyEnv1 d) s

/-- The meaning of `WRITE ENV1`. -/
def execWriteEnv1 (d : Byte) (s : State) : Result := issue s (writeEnv1 d)

/-- The rule of `FREQLO1` (R124) in the frame of R121. -/
def writeFreqlo1 (d : Byte) (s : State) : Result := channelWrite .c0 (bodyFreqlo1 d) s

/-- The meaning of `WRITE FREQLO1`. -/
def execWriteFreqlo1 (d : Byte) (s : State) : Result := issue s (writeFreqlo1 d)

/-- The rule of `FREQHI1` (R125) in the frame of R121. -/
def writeFreqhi1 (d : Byte) (s : State) : Result := channelWrite .c0 (bodyFreqhi1 d) s

/-- The meaning of `WRITE FREQHI1`. -/
def execWriteFreqhi1 (d : Byte) (s : State) : Result := issue s (writeFreqhi1 d)

/-- The rule of `LENDUTY2` (R123) in the frame of R121. -/
def writeLenduty2 (d : Byte) (s : State) : Result := channelWrite .c1 (bodyLenduty2 d) s

/-- The meaning of `WRITE LENDUTY2`. -/
def execWriteLenduty2 (d : Byte) (s : State) : Result := issue s (writeLenduty2 d)

/-- The rule of `ENV2` (R126) in the frame of R121. -/
def writeEnv2 (d : Byte) (s : State) : Result := channelWrite .c1 (bodyEnv2 d) s

/-- The meaning of `WRITE ENV2`. -/
def execWriteEnv2 (d : Byte) (s : State) : Result := issue s (writeEnv2 d)

/-- The rule of `FREQLO2` (R124) in the frame of R121. -/
def writeFreqlo2 (d : Byte) (s : State) : Result := channelWrite .c1 (bodyFreqlo2 d) s

/-- The meaning of `WRITE FREQLO2`. -/
def execWriteFreqlo2 (d : Byte) (s : State) : Result := issue s (writeFreqlo2 d)

/-- The rule of `FREQHI2` (R125) in the frame of R121. -/
def writeFreqhi2 (d : Byte) (s : State) : Result := channelWrite .c1 (bodyFreqhi2 d) s

/-- The meaning of `WRITE FREQHI2`. -/
def execWriteFreqhi2 (d : Byte) (s : State) : Result := issue s (writeFreqhi2 d)

/-- The rule of `DACEN3` (R150) in the frame of R121. -/
def writeDacen3 (d : Byte) (s : State) : Result := channelWrite .c2 (bodyDacen3 d) s

/-- The meaning of `WRITE DACEN3`. -/
def execWriteDacen3 (d : Byte) (s : State) : Result := issue s (writeDacen3 d)

/-- The rule of `LEN3` (R127) in the frame of R121. -/
def writeLen3 (d : Byte) (s : State) : Result := channelWrite .c2 (bodyLen3 d) s

/-- The meaning of `WRITE LEN3`. -/
def execWriteLen3 (d : Byte) (s : State) : Result := issue s (writeLen3 d)

/-- The rule of `LEVEL3` (R152) in the frame of R121. -/
def writeLevel3 (d : Byte) (s : State) : Result := channelWrite .c2 (bodyLevel3 d) s

/-- The meaning of `WRITE LEVEL3`. -/
def execWriteLevel3 (d : Byte) (s : State) : Result := issue s (writeLevel3 d)

/-- The rule of `FREQLO3` (R124) in the frame of R121. -/
def writeFreqlo3 (d : Byte) (s : State) : Result := channelWrite .c2 (bodyFreqlo3 d) s

/-- The meaning of `WRITE FREQLO3`. -/
def execWriteFreqlo3 (d : Byte) (s : State) : Result := issue s (writeFreqlo3 d)

/-- The rule of `FREQHI3` (R125, R145) in the frame of R121. -/
def writeFreqhi3 (d : Byte) (s : State) : Result := channelWrite .c2 (bodyFreqhi3 d) s

/-- The meaning of `WRITE FREQHI3`. -/
def execWriteFreqhi3 (d : Byte) (s : State) : Result := issue s (writeFreqhi3 d)

/-- The rule of `LEN4` (R128) in the frame of R121. -/
def writeLen4 (d : Byte) (s : State) : Result := channelWrite .c3 (bodyLen4 d) s

/-- The meaning of `WRITE LEN4`. -/
def execWriteLen4 (d : Byte) (s : State) : Result := issue s (writeLen4 d)

/-- The rule of `ENV4` (R126) in the frame of R121. -/
def writeEnv4 (d : Byte) (s : State) : Result := channelWrite .c3 (bodyEnv4 d) s

/-- The meaning of `WRITE ENV4`. -/
def execWriteEnv4 (d : Byte) (s : State) : Result := issue s (writeEnv4 d)

/-- The rule of `POLY4` (R160) in the frame of R121. -/
def writePoly4 (d : Byte) (s : State) : Result := channelWrite .c3 (bodyPoly4 d) s

/-- The meaning of `WRITE POLY4`. -/
def execWritePoly4 (d : Byte) (s : State) : Result := issue s (writePoly4 d)

/-- The rule of `TRIG4` (R129) in the frame of R121. -/
def writeTrig4 (d : Byte) (s : State) : Result := channelWrite .c3 (bodyTrig4 d) s

/-- The meaning of `WRITE TRIG4`. -/
def execWriteTrig4 (d : Byte) (s : State) : Result := issue s (writeTrig4 d)

end Sys2Proof.Machine
end

