-- ==== Sys2Proof/Machine/Global.lean ====
section
/-! DEFINITION. Wave RAM (43_wave_converter.md), the volume and routing registers (R170, R172), and the addresses that no
register has (R190, R191). -/

namespace Sys2Proof.Machine

/-! ## Wave RAM -/

/-- Convert wave byte `d` into samples 2j and 2j+1 (R231): each is overwritten, high nibble first. -/
def convertSample (cfg : Config) (j : Nat) (d : Byte) (buf : Memory) : Memory :=
  (buf.write (2 * j) (waveSample cfg (highNibble d))).write (2 * j + 1) (waveSample cfg (lowNibble d))

/-- The rule of `WAVE` (R231, R232): ungated; no message, no commit. -/
def writeWave (j : BitVec 4) (d : Byte) (s : State) : Result :=
  .next { s with sampleBuf := convertSample s.cfg j.toNat d s.sampleBuf }

/-- The meaning of `WRITE WAVE`. -/
def execWriteWave (j : BitVec 4) (d : Byte) (s : State) : Result := issue s (writeWave j d)

/-! ## Volume and routing -/

/-- R170 up to its message. -/
def mastervolUpdate (d : Byte) (s : State) : State :=
  commit .masterVolume (d.setWidth 32) { s with masterVolume := d }

/-- The rule of `MASTERVOL` (R170). -/
def writeMastervol (d : Byte) (s : State) : Result := send .masterVolume .all (mastervolUpdate d s)

/-- The meaning of `WRITE MASTERVOL`. -/
def execWriteMastervol (d : Byte) (s : State) : Result := issue s (writeMastervol d)

/-- One iteration of R172's loop: derive the pan of channel `i` and commit it. -/
def routePan (d : Byte) (i : Chan) (s : State) : State :=
  commit (.pan i) ((panOf d i).setWidth 32) (setVoice i { s.voice i with pan := panOf d i } s)

/-- R172 up to its message: the byte, the four pans in order, the commit of the byte. -/
def routingUpdate (d : Byte) (s : State) : State :=
  commit .routing (d.setWidth 32)
    (routePan d .c3 (routePan d .c2 (routePan d .c1 (routePan d .c0 { s with routing := d }))))

/-- The rule of `ROUTING` (R172). -/
def writeRouting (d : Byte) (s : State) : Result := send .update .all (routingUpdate d s)

/-- The meaning of `WRITE ROUTING`. -/
def execWriteRouting (d : Byte) (s : State) : Result := issue s (writeRouting d)

/-! ## Addresses that no register has: no effect, no message, no diagnostic -/

/-- The rule of an unmapped address of the window (R190) and of an address outside it (R191). -/
def noEffect (s : State) : Result := .next s

/-- The meaning of `WRITE 0x15, data` (R190). -/
def execWriteUnmapped15 (_d : Byte) (s : State) : Result := issue s noEffect

/-- The meaning of `WRITE 0x1F, data` (R190). -/
def execWriteUnmapped1F (_d : Byte) (s : State) : Result := issue s noEffect

/-- The meaning of `WRITE 0x27, data` (R190). -/
def execWriteUnmapped27 (_d : Byte) (s : State) : Result := issue s noEffect

/-- The meaning of `WRITE 0x28, data` (R190). -/
def execWriteUnmapped28 (_d : Byte) (s : State) : Result := issue s noEffect

/-- The meaning of `WRITE 0x29, data` (R190). -/
def execWriteUnmapped29 (_d : Byte) (s : State) : Result := issue s noEffect

/-- The meaning of `WRITE 0x2A, data` (R190). -/
def execWriteUnmapped2A (_d : Byte) (s : State) : Result := issue s noEffect

/-- The meaning of `WRITE 0x2B, data` (R190). -/
def execWriteUnmapped2B (_d : Byte) (s : State) : Result := issue s noEffect

/-- The meaning of `WRITE 0x2C, data` (R190). -/
def execWriteUnmapped2C (_d : Byte) (s : State) : Result := issue s noEffect

/-- The meaning of `WRITE 0x2D, data` (R190). -/
def execWriteUnmapped2D (_d : Byte) (s : State) : Result := issue s noEffect

/-- The meaning of `WRITE 0x2E, data` (R190). -/
def execWriteUnmapped2E (_d : Byte) (s : State) : Result := issue s noEffect

/-- The meaning of `WRITE 0x2F, data` (R190). -/
def execWriteUnmapped2F (_d : Byte) (s : State) : Result := issue s noEffect

/-- The meaning of `WRITE 0x00 + lo, data` (R191). -/
def execWriteOut0 (_lo : BitVec 4) (_d : Byte) (s : State) : Result := issue s noEffect

/-- The meaning of `WRITE 0x40 + lo, data` (R191). -/
def execWriteOut4 (_lo : BitVec 4) (_d : Byte) (s : State) : Result := issue s noEffect

/-- The meaning of `WRITE 0x50 + lo, data` (R191). -/
def execWriteOut5 (_lo : BitVec 4) (_d : Byte) (s : State) : Result := issue s noEffect

/-- The meaning of `WRITE 0x60 + lo, data` (R191). -/
def execWriteOut6 (_lo : BitVec 4) (_d : Byte) (s : State) : Result := issue s noEffect

/-- The meaning of `WRITE 0x70 + lo, data` (R191). -/
def execWriteOut7 (_lo : BitVec 4) (_d : Byte) (s : State) : Result := issue s noEffect

/-- The meaning of `WRITE 0x80 + lo, data` (R191). -/
def execWriteOut8 (_lo : BitVec 4) (_d : Byte) (s : State) : Result := issue s noEffect

/-- The meaning of `WRITE 0x90 + lo, data` (R191). -/
def execWriteOut9 (_lo : BitVec 4) (_d : Byte) (s : State) : Result := issue s noEffect

/-- The meaning of `WRITE 0xA0 + lo, data` (R191). -/
def execWriteOutA (_lo : BitVec 4) (_d : Byte) (s : State) : Result := issue s noEffect

/-- The meaning of `WRITE 0xB0 + lo, data` (R191). -/
def execWriteOutB (_lo : BitVec 4) (_d : Byte) (s : State) : Result := issue s noEffect

/-- The meaning of `WRITE 0xC0 + lo, data` (R191). -/
def execWriteOutC (_lo : BitVec 4) (_d : Byte) (s : State) : Result := issue s noEffect

/-- The meaning of `WRITE 0xD0 + lo, data` (R191). -/
def execWriteOutD (_lo : BitVec 4) (_d : Byte) (s : State) : Result := issue s noEffect

/-- The meaning of `WRITE 0xE0 + lo, data` (R191). -/
def execWriteOutE (_lo : BitVec 4) (_d : Byte) (s : State) : Result := issue s noEffect

/-- The meaning of `WRITE 0xF0 + lo, data` (R191). -/
def execWriteOutF (_lo : BitVec 4) (_d : Byte) (s : State) : Result := issue s noEffect

end Sys2Proof.Machine
end

