-- ==== Sys2Proof/Machine/Resync.lean ====
section
/-! DEFINITION. The master enable (R175 to R178), the bulk resync (R180 to R182), REFRESH (R285), and the running of what
an operation still has to do after a `Send` that held P. -/

namespace Sys2Proof.Machine

/-! ## Dispatch (R120) -/

/-- The rule that `WRITE a, d` runs, for the addresses a resync dispatches (R120, R180). The resync skips 0x26, the master
enable, whose own rule is `writeMasteren` below; here it has no effect. -/
def dispatch (a d : Byte) (s : State) : Result :=
  match decodeWrite (a.extractLsb' 4 4) (a.extractLsb' 0 4) d with
  | .writeSweep1 d => writeSweep1 d s
  | .writeLenduty1 d => writeLenduty1 d s
  | .writeEnv1 d => writeEnv1 d s
  | .writeFreqlo1 d => writeFreqlo1 d s
  | .writeFreqhi1 d => writeFreqhi1 d s
  | .writeLenduty2 d => writeLenduty2 d s
  | .writeEnv2 d => writeEnv2 d s
  | .writeFreqlo2 d => writeFreqlo2 d s
  | .writeFreqhi2 d => writeFreqhi2 d s
  | .writeDacen3 d => writeDacen3 d s
  | .writeLen3 d => writeLen3 d s
  | .writeLevel3 d => writeLevel3 d s
  | .writeFreqlo3 d => writeFreqlo3 d s
  | .writeFreqhi3 d => writeFreqhi3 d s
  | .writeLen4 d => writeLen4 d s
  | .writeEnv4 d => writeEnv4 d s
  | .writePoly4 d => writePoly4 d s
  | .writeTrig4 d => writeTrig4 d s
  | .writeMastervol d => writeMastervol d s
  | .writeRouting d => writeRouting d s
  | .writeWave j d => writeWave j d s
  | _ => noEffect s

/-- `TRIGREG[i]` (R108). -/
def trigReg : Chan → Byte
  | .c0 => 0x14#8
  | .c1 => 0x19#8
  | .c2 => 0x1E#8
  | .c3 => 0x23#8

/-- Is `a` a trigger register (R108)? -/
def isTrigReg (a : Byte) : Bool := a = 0x14#8 || a = 0x19#8 || a = 0x1E#8 || a = 0x23#8

/-! ## Tasks -/

/-- The byte the bulk pass dispatches at `a`: the stored byte, a trigger register's without bit 7 (R181). -/
def bulkByte (a : Byte) (s : State) : Byte :=
  if isTrigReg a then withoutTrigger (s.ioByte a) else s.ioByte a

/-- Do one task: an iteration of the bulk pass (R181), an iteration of the re-trigger pass (R182), or the last line of
UNMUTE (R290). -/
def runTask (t : Task) (s : State) : Result :=
  match t with
  | .bulk a => dispatch a (bulkByte a s) s
  | .retrigger i prev =>
    if s.masterEnable && prev then dispatch (trigReg i) (withTrigger (s.ioByte (trigReg i))) s
    else .next s
  | .unmuteWord => if s.soundEnabled then enqueue (messageWord .unmute .all) s else .next s

/-- Put off the tasks that follow a `Send` that holds P. -/
def deferTasks (ts : List Task) (s : State) : State :=
  { s with held := s.held.map fun h => { h with rest := h.rest ++ ts } }

/-- Do the tasks in order. When a `Send` holds P, the rest waits until the hold ends (R253, R346). -/
def runTasks : List Task → State → Result
  | [], s => .next s
  | t :: ts, s =>
    andThen (runTask t s) fun s' =>
    if s'.held.isSome then .next (deferTasks ts s') else runTasks ts s'

/-- P, holding, looks again (R253); when the hold ends, its operation goes on. -/
def resume (h : Held) (s : State) : Result :=
  andThen (await h.word s) fun s' =>
  if s'.held.isSome then .next (deferTasks h.rest s') else runTasks h.rest s'

/-! ## The bulk resync -/

/-- The addresses of the bulk pass: 0x10 to 0x3F, ascending, without 0x26 (R180). -/
def bulkAddresses : List Byte :=
  [0x10#8, 0x11#8, 0x12#8, 0x13#8, 0x14#8, 0x15#8, 0x16#8, 0x17#8, 0x18#8, 0x19#8, 0x1A#8, 0x1B#8, 0x1C#8,
   0x1D#8, 0x1E#8, 0x1F#8, 0x20#8, 0x21#8, 0x22#8, 0x23#8, 0x24#8, 0x25#8, 0x27#8, 0x28#8, 0x29#8, 0x2A#8,
   0x2B#8, 0x2C#8, 0x2D#8, 0x2E#8, 0x2F#8, 0x30#8, 0x31#8, 0x32#8, 0x33#8, 0x34#8, 0x35#8, 0x36#8, 0x37#8,
   0x38#8, 0x39#8, 0x3A#8, 0x3B#8, 0x3C#8, 0x3D#8, 0x3E#8, 0x3F#8]

/-- The re-trigger pass with the snapshot of the on flags taken in `s` (R180, R182). -/
def retriggerTasks (s : State) : List Task :=
  [.retrigger .c0 s.ch0.voice.on, .retrigger .c1 s.ch1.voice.on, .retrigger .c2 s.ch2.voice.on,
   .retrigger .c3 s.ch3.voice.on]

/-- `Resync()` (R180), with the tasks that its caller does after it. -/
def resync (after : List Task) (s : State) : Result :=
  runTasks (bulkAddresses.map .bulk ++ retriggerTasks s ++ after) (commit .onMask 0 s)

/-- R285 up to the resync: the master bit from the host storage, and the two flags published again. -/
def refreshUpdate (s : State) : State :=
  commit .hyperSync (flagWord s.accurateSync)
    (commit .producerFlip (flagWord s.producerFlip) { s with masterEnable := masterOf (s.ioByte 0x26#8) })

/-- `Refresh()` (R285), with the tasks that its caller does after it. -/
def refresh (after : List Task) (s : State) : Result := resync after (refreshUpdate s)

/-- The meaning of `REFRESH` (R285). -/
def execRefresh (s : State) : Result := issue s (refresh [])

/-! ## The master enable -/

/-- R176 up to its message. -/
def disableUpdate (s : State) : State := commit .onMask 0 { s with masterEnable := false }

/-- `MasterDisable()` (R176). -/
def masterDisable (s : State) : Result := send .update .all (disableUpdate s)

/-- The rule of `MASTEREN` (R175): only a change of the enable bit acts (R177, R178). -/
def writeMasteren (d : Byte) (s : State) : Result :=
  if masterOf d = false ∧ s.masterEnable = true then masterDisable s
  else if masterOf d = true ∧ s.masterEnable = false then resync [] { s with masterEnable := true }
  else .next s

/-- The meaning of `WRITE MASTEREN`. -/
def execWriteMasteren (d : Byte) (s : State) : Result := issue s (writeMasteren d)

end Sys2Proof.Machine
end

