-- ==== Sys2Proof/Machine/Lifecycle.lean ====
section
/-! DEFINITION. The lifecycle and frame operations (45_lifecycle.md): INIT, MUTE, UNMUTE, SETENABLED, SETSYNC, VBLANK,
GETNEXT. REFRESH stands in Machine/Resync.lean. -/

namespace Sys2Proof.Machine

/-! ## INIT -/

/-- Convert wave bytes `io(0x30) .. io(0x30 + n - 1)` into an empty Sample Buffer, ascending (R233). -/
def convertAll (cfg : Config) (io : Memory) : Nat → Memory
  | 0 => []
  | n + 1 => convertSample cfg n (io.read (0x30 + n)) (convertAll cfg io n)

/-- `Init()` (R280): every record, global and shared field at its init value, Q empty, the wave RAM converted. The
configuration, the host storage and the inputs are not GYSND's state and stay (R331); so do the events already put out. -/
def initState (s : State) : State where
  cfg          := s.cfg
  ch0          := ⟨Voice.reset, Envelope.reset, Sweep.reset, 0, 0, 0⟩
  ch1          := ⟨Voice.reset, Envelope.reset, 0, 0, 0⟩
  ch2          := ⟨Voice.reset, 0, 0, 0, false⟩
  ch3          := ⟨Voice.reset, Envelope.reset, 0, 0⟩
  masterEnable := false
  soundEnabled := true
  muted        := false
  target       := .real
  accurateSync := false
  masterVolume := 0
  routing      := 0
  nextEvent    := noEvent
  producerFlip := false
  sampleBuf    := convertAll s.cfg s.io 16
  diagCount    := ⟨0, 0, 0, 0⟩
  rsb          := SharedBlock.reset s.cfg
  dsb          := SharedBlock.reset s.cfg
  queue        := []
  started      := true
  held         := none
  consumer     := ⟨none, false, .idle⟩
  io           := s.io
  stream       := s.stream
  turns        := s.turns
  draws        := s.draws
  drawCount    := s.drawCount
  events       := s.events

/-- The meaning of `INIT` (R280): the first operation of a run (R330), or a later one while P does not hold and no consumer
move is half done (R281). -/
def execInit (s : State) : Result :=
  if configAdmitted s.cfg = false then .refused .badConfiguration
  else if s.started = true ∧ s.held.isSome then .fault .reentrantOperation
  else if s.started = true ∧ s.consumerActive then .fault .initWhileConsumerActive
  else .next (initState s)

/-! ## Mute and unmute -/

/-- `Mute()` (R289): the Mute word goes in before the redirection. -/
def muteRule (s : State) : Result :=
  if s.muted then .next s
  else
    andThen (if s.soundEnabled then enqueue (messageWord .mute .all) s else .next s) fun s =>
    .next { s with target := .dummy, muted := true }

/-- The meaning of `MUTE`. -/
def execMute (s : State) : Result := issue s muteRule

/-- `Unmute()` (R290): re-attach, refresh, then the Unmute word. -/
def unmuteRule (s : State) : Result :=
  if s.muted then refresh [.unmuteWord] { s with target := .real, muted := false }
  else .next s

/-- The meaning of `UNMUTE`. -/
def execUnmute (s : State) : Result := issue s unmuteRule

/-! ## Enable and sync mode -/

/-- `SetEnabled(b)` (R291): only the change from 0 to 1 refreshes. -/
def setEnabled (b : Bool) (s : State) : Result :=
  if s.soundEnabled = false ∧ b = true then refresh [] { s with soundEnabled := b }
  else .next { s with soundEnabled := b }

/-- The meaning of `SETENABLED`. -/
def execSetenabled (b : Bool) (s : State) : Result := issue s (setEnabled b)

/-- The state after `SETSYNC b` (R295). -/
def syncUpdate (b : Bool) (s : State) : State :=
  commit .hyperSync (flagWord b) { s with accurateSync := b }

/-- `SETSYNC b` (R295). -/
def setSync (b : Bool) (s : State) : Result := .next (syncUpdate b s)

/-- The meaning of `SETSYNC`. -/
def execSetsync (b : Bool) (s : State) : Result := issue s (setSync b)

/-! ## Frame operations -/

/-- The state after `VBLANK` (R293): the producer's flip toggles and is committed. -/
def vblankUpdate (s : State) : State :=
  commit .producerFlip (flagWord !s.producerFlip) { s with producerFlip := !s.producerFlip }

/-- `VBLANK` (R293). -/
def vblank (s : State) : Result := .next (vblankUpdate s)

/-- The meaning of `VBLANK`. -/
def execVblank (s : State) : Result := issue s vblank

/-- `GETNEXT` (R297): the next-event minimum goes out to the host, and nothing else changes. -/
def getNext (s : State) : Result := .next (emit (.nextEvent s.nextEvent) s)

/-- The meaning of `GETNEXT`. -/
def execGetnext (s : State) : Result := issue s getNext

end Sys2Proof.Machine
end

