-- ==== Sys2Proof/Machine/Message.lean ====
section
/-! DEFINITION. The message words, which the consumer decodes when it dequeues one (R110 to R112, R262), and the reserved
operation codes (R92 (a)). -/

namespace Sys2Proof.Machine

/-! ## Message words -/

/-- The consumer has removed the word `w` (the first step of Dequeue) and now counts it (the second, R262). When it has
not removed `w`, this step of Dequeue is not due and nothing happens. What the consumer does with its sound is not part
of GYSND (R269). -/
def receiveMessage (w : Word) (s : State) : Result :=
  if s.started = false then .fault .consumerBeforeInit
  else if s.consumer.dequeued = some w then .next (countMessage s)
  else .next s

/-- The meaning of the message `Start(i)`. -/
def execMsgStart (i : Chan) (s : State) : Result := receiveMessage (messageWord .start (.one i)) s

/-- The meaning of the message `Update(i)`. -/
def execMsgUpdate (i : Chan) (s : State) : Result := receiveMessage (messageWord .update (.one i)) s

/-- The meaning of the message `Update(ALL)`. -/
def execMsgUpdateAll (s : State) : Result := receiveMessage (messageWord .update .all) s

/-- The meaning of the message `MasterVolume(ALL)`. -/
def execMsgMasterVolumeAll (s : State) : Result := receiveMessage (messageWord .masterVolume .all) s

/-- The meaning of the message `Mute(ALL)`. -/
def execMsgMuteAll (s : State) : Result := receiveMessage (messageWord .mute .all) s

/-- The meaning of the message `Unmute(ALL)`. -/
def execMsgUnmuteAll (s : State) : Result := receiveMessage (messageWord .unmute .all) s

/-- The meaning of any other message word: a fault of the environment (R112, R309 (d)). -/
def execMsgReserved (w : Word) (_s : State) : Result := .fault (.reservedMessage w)

/-! ## Reserved operation codes -/

/-- A reserved operation code has no step (R92 (a), R309 (a)). -/
def reservedCode : Result := .refused .reservedOperation

/-- The meaning of operation code 0xA. -/
def execRefusedA (_payload : BitVec 28) (_s : State) : Result := reservedCode

/-- The meaning of operation code 0xB. -/
def execRefusedB (_payload : BitVec 28) (_s : State) : Result := reservedCode

/-- The meaning of operation code 0xC. -/
def execRefusedC (_payload : BitVec 28) (_s : State) : Result := reservedCode

/-- The meaning of operation code 0xD. -/
def execRefusedD (_payload : BitVec 28) (_s : State) : Result := reservedCode

/-- The meaning of operation code 0xE. -/
def execRefusedE (_payload : BitVec 28) (_s : State) : Result := reservedCode

/-- The meaning of operation code 0xF. -/
def execRefusedF (_payload : BitVec 28) (_s : State) : Result := reservedCode

end Sys2Proof.Machine
end

