-- ==== Sys2Proof/Machine/Timing.lean ====
section
/-! DEFINITION. The channel timing engine (42_timing_engine.md): the three passes of ADVANCE and its final message. -/

namespace Sys2Proof.Machine

/-- The fuel of the two loops below: how many times a loop that adds `period` to a counter runs before the counter is above
0 (R215), 0 for a counter above 0. A period of 0, which only a sweep of time 1 below 128 cycles per second has, never gets
there: as many steps as there are frequencies then show whether the sweep overflows (log entry 11). -/
def loopSteps (counter period : Int) : Nat :=
  if 0 < counter then 0
  else if period = 0 then 0x800
  else (-counter / period + 1).toNat

/-- Switch channel `i` off: the on flag, the on-bit, the event, the changed mark (R204, R208). -/
def switchOff (i : Chan) (p : Slice) : Slice :=
  ⟨signalDeactivate i (commitOnBit i false (setOn i false p.state)), true⟩

/-! ## Sweep pass -/

/-- Channel 0 after one step's counter and frequency are stored (R203). -/
def sweepStored (s : State) : State :=
  { s with ch0 := { s.ch0 with
      freq := BitVec.ofNat 12 (sweptFreq s.ch0.freq s.ch0.sweep.shift s.ch0.sweep.down)
      sweep := { s.ch0.sweep with
        counter := s.ch0.sweep.counter + sweepPeriod s.cfg s.ch0.sweep.time } } }

/-- One sweep step (R203), with the overflow (R204). -/
def sweepStep (p : Slice) : Slice :=
  let f := sweptFreq p.state.ch0.freq p.state.ch0.sweep.shift p.state.ch0.sweep.down
  let s := sweepStored p.state
  if 0x7FF < f then switchOff .c0 { p with state := s }
  else ⟨commit (.freq .c0) ((s.freq .c0).setWidth 32) s, p.changed || f != p.state.ch0.freq.toNat⟩

/-- The sweep loop: a step while the channel is on and the counter is not above 0 (R200). -/
def sweepLoop : Nat → Slice → Slice
  | 0, p => p
  | n + 1, p =>
    if p.state.ch0.voice.on && decide (p.state.ch0.sweep.counter ≤ 0) then sweepLoop n (sweepStep p) else p

/-- `ch[0].sweepCounter <- ch[0].sweepCounter - e`. -/
def sweepElapse (e : Int) (s : State) : State :=
  { s with ch0 := { s.ch0 with sweep := { s.ch0.sweep with counter := s.ch0.sweep.counter - e } } }

/-- The report at the end of the sweep pass, when the channel is still on (R212). -/
def sweepReport (p : Slice) : Slice :=
  if p.state.ch0.voice.on then { p with state := reportNext p.state.ch0.sweep.counter p.state } else p

/-- The sweep pass (R202). -/
def sweepPass (e : Int) (p : Slice) : Slice :=
  if p.state.ch0.voice.on && decide (p.state.ch0.sweep.time ≠ 0#3) then
    let s := sweepElapse e p.state
    sweepReport (sweepLoop (loopSteps s.ch0.sweep.counter (sweepPeriod s.cfg s.ch0.sweep.time))
      { p with state := s })
  else p

/-! ## Envelope pass -/

/-- One envelope step on channel `i`, whose envelope is `v` (R206). -/
def envelopeStep (i : Chan) (v : Envelope) (p : Slice) : Slice :=
  let vol := envStepVol v.up v.vol
  let s := setEnv i { v with vol := vol, counter := v.counter + envReload p.state.cfg v.period } p.state
  if vol ≠ v.vol then ⟨commit (.vol i) (vol.setWidth 32) s, true⟩ else { p with state := s }

/-- The envelope loop: a step while the counter is not above 0 (R200). -/
def envelopeLoop (i : Chan) : Nat → Slice → Slice
  | 0, p => p
  | n + 1, p =>
    match p.state.env i with
    | some v => if v.counter ≤ 0 then envelopeLoop i n (envelopeStep i v p) else p
    | none => p

/-- The report at the end of a channel's envelope turn (R200, R212). -/
def envelopeReport (i : Chan) (p : Slice) : Slice :=
  match p.state.env i with
  | some v => { p with state := reportNext v.counter p.state }
  | none => p

/-- The envelope turn of channel `i` (R205). -/
def envelopePass (e : Int) (i : Chan) (p : Slice) : Slice :=
  match p.state.env i with
  | some v =>
    if (p.state.voice i).on && decide (v.period ≠ 0#3) then
      let s := setEnv i { v with counter := v.counter - e } p.state
      envelopeReport i (envelopeLoop i (loopSteps (v.counter - e) (envReload s.cfg v.period)) { p with state := s })
    else p
  | none => p

/-! ## Length pass -/

/-- The length turn of channel `i` (R207), with the expiry (R208). -/
def lengthPass (e : Int) (i : Chan) (p : Slice) : Slice :=
  let v := p.state.voice i
  if v.on && v.lenEnable then
    let s := setVoice i { v with lenCounter := v.lenCounter - e } p.state
    if v.lenCounter - e ≤ 0 then switchOff i { p with state := s }
    else { p with state := reportNext (v.lenCounter - e) s }
  else p

/-! ## The operation -/

/-- The three passes, in the order GY fixes (R200, R210): sweep; envelope of 0, 1, 3; length of 0, 1, 2, 3. -/
def advancePasses (e : Int) (s : State) : Slice :=
  let p := sweepPass e ⟨{ s with nextEvent := noEvent }, false⟩
  let p := envelopePass e .c3 (envelopePass e .c1 (envelopePass e .c0 p))
  lengthPass e .c3 (lengthPass e .c2 (lengthPass e .c1 (lengthPass e .c0 p)))

/-- The sweep loop does not end (log entry 11): its period is 0, so its counter stays at or below 0, and the channel stays
on. R215 says that every loop ends, which holds for every other period. -/
def sweepEndless (e : Int) (s : State) : Bool :=
  let t := (sweepPass e ⟨{ s with nextEvent := noEvent }, false⟩).state
  t.ch0.voice.on && decide (t.ch0.sweep.time ≠ 0#3) && decide (t.ch0.sweep.counter ≤ 0)

/-- `Advance(e)` (R200): the passes, then `Update(ALL)` when the slice is marked changed (R209). -/
def advance (elapsed : BitVec 28) (s : State) : Result :=
  if sweepEndless elapsed.toNat s then .fault .endlessSweep
  else
    let p := advancePasses elapsed.toNat s
    if p.changed then send .update .all p.state else .next p.state

/-- The meaning of `ADVANCE`. -/
def execAdvance (elapsed : BitVec 28) (s : State) : Result := issue s (advance elapsed)

end Sys2Proof.Machine
end

