-- ==== Sys2Proof/Machine/Dispatch.lean ====
section
/-! DEFINITION. One arm per instruction, each a direct call of its meaning. -/

namespace Sys2Proof.Machine

def exec (i : Instr) (s : State) : Host.Outcome State Fault Refusal :=
  match i with
  | .writeSweep1 data => Sys2Proof.Machine.execWriteSweep1 data s
  | .writeLenduty1 data => Sys2Proof.Machine.execWriteLenduty1 data s
  | .writeEnv1 data => Sys2Proof.Machine.execWriteEnv1 data s
  | .writeFreqlo1 data => Sys2Proof.Machine.execWriteFreqlo1 data s
  | .writeFreqhi1 data => Sys2Proof.Machine.execWriteFreqhi1 data s
  | .writeLenduty2 data => Sys2Proof.Machine.execWriteLenduty2 data s
  | .writeEnv2 data => Sys2Proof.Machine.execWriteEnv2 data s
  | .writeFreqlo2 data => Sys2Proof.Machine.execWriteFreqlo2 data s
  | .writeFreqhi2 data => Sys2Proof.Machine.execWriteFreqhi2 data s
  | .writeDacen3 data => Sys2Proof.Machine.execWriteDacen3 data s
  | .writeLen3 data => Sys2Proof.Machine.execWriteLen3 data s
  | .writeLevel3 data => Sys2Proof.Machine.execWriteLevel3 data s
  | .writeFreqlo3 data => Sys2Proof.Machine.execWriteFreqlo3 data s
  | .writeFreqhi3 data => Sys2Proof.Machine.execWriteFreqhi3 data s
  | .writeLen4 data => Sys2Proof.Machine.execWriteLen4 data s
  | .writeEnv4 data => Sys2Proof.Machine.execWriteEnv4 data s
  | .writePoly4 data => Sys2Proof.Machine.execWritePoly4 data s
  | .writeTrig4 data => Sys2Proof.Machine.execWriteTrig4 data s
  | .writeMastervol data => Sys2Proof.Machine.execWriteMastervol data s
  | .writeRouting data => Sys2Proof.Machine.execWriteRouting data s
  | .writeMasteren data => Sys2Proof.Machine.execWriteMasteren data s
  | .writeWave j data => Sys2Proof.Machine.execWriteWave j data s
  | .writeUnmapped15 data => Sys2Proof.Machine.execWriteUnmapped15 data s
  | .writeUnmapped1F data => Sys2Proof.Machine.execWriteUnmapped1F data s
  | .writeUnmapped27 data => Sys2Proof.Machine.execWriteUnmapped27 data s
  | .writeUnmapped28 data => Sys2Proof.Machine.execWriteUnmapped28 data s
  | .writeUnmapped29 data => Sys2Proof.Machine.execWriteUnmapped29 data s
  | .writeUnmapped2A data => Sys2Proof.Machine.execWriteUnmapped2A data s
  | .writeUnmapped2B data => Sys2Proof.Machine.execWriteUnmapped2B data s
  | .writeUnmapped2C data => Sys2Proof.Machine.execWriteUnmapped2C data s
  | .writeUnmapped2D data => Sys2Proof.Machine.execWriteUnmapped2D data s
  | .writeUnmapped2E data => Sys2Proof.Machine.execWriteUnmapped2E data s
  | .writeUnmapped2F data => Sys2Proof.Machine.execWriteUnmapped2F data s
  | .writeOut0 lo data => Sys2Proof.Machine.execWriteOut0 lo data s
  | .writeOut4 lo data => Sys2Proof.Machine.execWriteOut4 lo data s
  | .writeOut5 lo data => Sys2Proof.Machine.execWriteOut5 lo data s
  | .writeOut6 lo data => Sys2Proof.Machine.execWriteOut6 lo data s
  | .writeOut7 lo data => Sys2Proof.Machine.execWriteOut7 lo data s
  | .writeOut8 lo data => Sys2Proof.Machine.execWriteOut8 lo data s
  | .writeOut9 lo data => Sys2Proof.Machine.execWriteOut9 lo data s
  | .writeOutA lo data => Sys2Proof.Machine.execWriteOutA lo data s
  | .writeOutB lo data => Sys2Proof.Machine.execWriteOutB lo data s
  | .writeOutC lo data => Sys2Proof.Machine.execWriteOutC lo data s
  | .writeOutD lo data => Sys2Proof.Machine.execWriteOutD lo data s
  | .writeOutE lo data => Sys2Proof.Machine.execWriteOutE lo data s
  | .writeOutF lo data => Sys2Proof.Machine.execWriteOutF lo data s
  | .advance elapsed => Sys2Proof.Machine.execAdvance elapsed s
  | .getnext => Sys2Proof.Machine.execGetnext s
  | .vblank => Sys2Proof.Machine.execVblank s
  | .init => Sys2Proof.Machine.execInit s
  | .refresh => Sys2Proof.Machine.execRefresh s
  | .mute => Sys2Proof.Machine.execMute s
  | .unmute => Sys2Proof.Machine.execUnmute s
  | .setenabled b => Sys2Proof.Machine.execSetenabled b s
  | .setsync b => Sys2Proof.Machine.execSetsync b s
  | .refusedA payload => Sys2Proof.Machine.execRefusedA payload s
  | .refusedB payload => Sys2Proof.Machine.execRefusedB payload s
  | .refusedC payload => Sys2Proof.Machine.execRefusedC payload s
  | .refusedD payload => Sys2Proof.Machine.execRefusedD payload s
  | .refusedE payload => Sys2Proof.Machine.execRefusedE payload s
  | .refusedF payload => Sys2Proof.Machine.execRefusedF payload s
  | .msgStart ch => Sys2Proof.Machine.execMsgStart ch s
  | .msgUpdate ch => Sys2Proof.Machine.execMsgUpdate ch s
  | .msgUpdateAll => Sys2Proof.Machine.execMsgUpdateAll s
  | .msgMasterVolumeAll => Sys2Proof.Machine.execMsgMasterVolumeAll s
  | .msgMuteAll => Sys2Proof.Machine.execMsgMuteAll s
  | .msgUnmuteAll => Sys2Proof.Machine.execMsgUnmuteAll s
  | .msgReserved w => Sys2Proof.Machine.execMsgReserved w s

end Sys2Proof.Machine
end

