-- ==== Sys2Proof/Machine/Fetch.lean ====
section
/-! DEFINITION. What the machine does next while P does not hold: fetching the host's next action and running it (R8). -/

namespace Sys2Proof.Machine

/-- Run the operation that a word decodes to; a word with a must-be-zero field that is not 0 has no step (R92). -/
def runWord (w : Word) (s : State) : Result :=
  match decodeOperation w with
  | .ok i => exec i s
  | .error .mustBeZero => .refused .mustBeZero

/-- The next action of the host, after an opportunity for the consumer. With no action left, only the consumer moves. -/
def hostStep (s : State) : Result :=
  match s.stream with
  | [] => consumerTurn s
  | .store a d :: rest => andThen (consumerTurn { s with stream := rest }) (hostStore a d)
  | .op w :: rest => andThen (consumerTurn { s with stream := rest }) (runWord w)

/-- The machine's next action: P, holding, looks again (R253); else the host acts, which issues nothing while P holds
(R8, R343). A configuration outside its admitted range is refused (R309 (f)). DESIGN CHOICE (log entry 6): before the first
`INIT` no operation runs, so P holds in none whatever the unspecified field `held` says (R330), and the host acts. -/
def nextAction (s : State) : Result :=
  if configAdmitted s.cfg = false then .refused .badConfiguration
  else
    match s.held with
    | some h => if s.started then resume h s else hostStep s
    | none => hostStep s

/-! ## Program lines (R113, R341): the host's actions that a line of a program stands for -/

/-- `WRITE a, d`: H stores the byte, where its storage has that address (R60), and issues the word. -/
def writeLine (a d : Byte) : List HostAction :=
  (if 0x10 ≤ a.toNat ∧ a.toNat ≤ 0x3F then [.store a d] else [])
    ++ [.op (writeWord (a.toNat / 16) (a.toNat % 16) d)]

/-- The pseudo-operation `TRIGGER i`: its trigger register written with the stored byte and bit 7. -/
def triggerLine (i : Chan) (s : State) : List HostAction :=
  writeLine (trigReg i) (withTrigger (s.ioByte (trigReg i)))

/-- The pseudo-operation `RESET` (R286). -/
def resetLine : List HostAction := [.op (encode .refresh)]

/-! ## Placing a word -/

/-- The word of a table row, whose bits above `nbits` are 0. -/
def tableWord (nbits w : Nat) : Word := BitVec.ofNat 32 (w % 2 ^ nbits)

/-- Make `w` the host's next action, in front of the others; P must not hold, or the next step would not fetch. -/
def stageWord (w : Word) (s : State) : State := { s with held := none, stream := .op w :: s.stream }

end Sys2Proof.Machine
end

