-- ==== Sys2Proof/Machine/Step.lean ====
section
/-! DEFINITION. The step of the whole machine (R8), and how a word is placed where the next step fetches it. -/

namespace Sys2Proof.Machine

/-- One step of the machine. -/
def step (s : State) : Host.Outcome State Fault Refusal := nextAction s

/-- `s` with the word as the host's next action, so that the next step runs it. This is how a program comes to run: the
host's stream is loaded from outside (log entry 7). -/
def State.withFetchWord (s : State) (nbits w : Nat) : State := stageWord (tableWord nbits w) s

end Sys2Proof.Machine
end

