-- ==== Sys2Proof/Safety.lean ====
section
/-! DEFINITION. The terms that statements use: when an operation runs, when the consumer is silent, what a send does to the
queue, the parts of the state that an agent owns, and the invariants. -/

namespace Sys2Proof.Machine

/-! ## When an operation runs -/

/-- The host may issue an operation other than `INIT`: the configuration is admitted (R309 (f)), an `INIT` has been
executed (R330), and P does not hold (R8, R343). -/
abbrev State.Ready (s : State) : Prop :=
  configAdmitted s.cfg = true ∧ s.started = true ∧ s.held = none

/-- The consumer makes no move at the next opportunities: State lists none. -/
abbrev State.Silent (s : State) : Prop := s.turns = []

/-- The gates of `Send` are open (R246). -/
abbrev State.Audible (s : State) : Prop := s.soundEnabled = true ∧ s.muted = false

/-- `Send` delivers at once (R245, R249). -/
abbrev State.BestEffort (s : State) : Prop := s.Audible ∧ s.accurateSync = false

/-- A best-effort or gated machine: no `Send` can hold P (R245, R249). -/
abbrev State.NeverHolds (s : State) : Prop := s.Audible → s.accurateSync = false

/-! ## What a send does to the queue -/

/-- The queue admits a word (R248): fewer than `DROP_THRESHOLD` outstanding, and the queue not at its capacity. -/
abbrev State.Admits (s : State) : Prop :=
  s.outstanding.toNat < s.cfg.dropThreshold ∧ s.queue.length ≠ s.cfg.queueCapacity

/-- From `s` to `t` no message is sent and no diagnostic is emitted. -/
def SendsNothing (s t : State) : Prop :=
  t.queue = s.queue ∧ t.rsb.message = s.rsb.message ∧ t.rsb.sentCount = s.rsb.sentCount
    ∧ t.diagCount = s.diagCount ∧ t.held = s.held

/-- From `s` to `t` the word `w` is admitted (R248). -/
def Admitted (w : Word) (s t : State) : Prop :=
  t.queue = s.queue ++ [w] ∧ t.rsb.message = w ∧ t.rsb.sentCount = s.rsb.sentCount + 1
    ∧ t.diagCount = s.diagCount ∧ t.held = s.held

/-- From `s` to `t` a word is dropped (R248, R301): the threshold is tested before the capacity (R307). -/
def Dropped (s t : State) : Prop :=
  t.queue = s.queue ∧ t.rsb.message = s.rsb.message ∧ t.rsb.sentCount = s.rsb.sentCount
    ∧ t.diagCount = s.diagCount.bump
        (if s.cfg.dropThreshold ≤ s.outstanding.toNat then .thresholdDrop else .queueFull)
    ∧ t.held = s.held

/-- The diagnostics that the admission of one word in `s` puts out to the host (R248, R301): none, or that of its drop. -/
def dropEvents (s : State) : List HostEvent :=
  if s.cfg.dropThreshold ≤ s.outstanding.toNat then [.diag .thresholdDrop]
  else if s.queue.length = s.cfg.queueCapacity then [.diag .queueFull]
  else []

/-- From `s` to `t` the word `w` goes through the admission of R248. -/
def AdmittedOrDropped (w : Word) (s t : State) : Prop := (s.Admits → Admitted w s t) ∧ (¬s.Admits → Dropped s t)

/-! ## The parts of the state that an agent owns (R50) -/

/-- The state with everything blanked that the consumer writes: its fields of the real block and `syncCycle` (R35), the
queue it removes from, its half-done moves and its script. Two states with the same producer side differ in nothing that
P or H owns. -/
def producerSide (s : State) : State :=
  { s with
    queue := [], turns := [], consumer := ⟨none, false, .idle⟩
    rsb := { s.rsb with
      recvCount := 0, syncCycle := 0, consumerCycle := 0, consumerFlip := false, flipInProgress := false
      transferInProgress := false } }

/-- Is the event a diagnostic? -/
def HostEvent.isDiag : HostEvent → Bool
  | .diag _ => true
  | .deactivate _ | .nextEvent _ => false

/-- The state with everything blanked that sending a message touches besides: the message slot and the sent count (R248),
the diagnostics (R301), P's hold (R253), the draws (R45). What is left are the records, the globals, the committed
parameters of both blocks and the other outputs. -/
def recordSide (s : State) : State :=
  { producerSide s with
    rsb := { (producerSide s).rsb with message := 0, sentCount := 0 }
    diagCount := ⟨0, 0, 0, 0⟩, held := none, draws := [], drawCount := 0
    events := s.events.filter fun e => !e.isDiag }

/-- The state with everything blanked that no `Send` reads or writes: the records, the global bytes, the timers' minimum,
the memories, the host's actions, the dummy block, the committed parameters of the real block, and the outputs that are no
diagnostics. What is left is the configuration, the modes, the protocol fields of the real block, the queue, the diagnostics,
P's hold, the consumer and the draws. -/
def protocolSide (s : State) : State :=
  { s with
    ch0 := ⟨Voice.reset, Envelope.reset, Sweep.reset, 0, 0, 0⟩
    ch1 := ⟨Voice.reset, Envelope.reset, 0, 0, 0⟩
    ch2 := ⟨Voice.reset, 0, 0, 0, false⟩
    ch3 := ⟨Voice.reset, Envelope.reset, 0, 0⟩
    masterEnable := false, masterVolume := 0, routing := 0, nextEvent := 0, sampleBuf := [], io := [], stream := []
    dsb := SharedBlock.reset s.cfg
    rsb := { s.rsb with
      onMask := 0, masterVolume := 0, routing := 0, hyperSync := false, vol := ⟨0, 0, 0, 0⟩, freq := ⟨0, 0, 0, 0⟩
      pan := ⟨0, 0, 0, 0⟩, duty := ⟨0, 0, 0, 0⟩, sampleBufPtr := 0 }
    events := s.events.filter HostEvent.isDiag }

/-- From `s` to `t` the word `w` is handed to `Send` once, after the commits (R68, R245): in best-effort mode it is admitted
or dropped (R248, R249); in cycle-accurate mode `t` is what `SyncSend` of it leaves (R250), run in a state `u` that has the
protocol's side of `s` and the records and commits of `t`; while a gate is closed it is suppressed (R246). -/
def Sends (w : Word) (s t : State) : Prop :=
  (s.BestEffort → s.Admits → Admitted w s t) ∧ (s.BestEffort → ¬s.Admits → Dropped s t)
    ∧ (s.Audible → s.accurateSync = true →
        ∃ u, protocolSide u = protocolSide s ∧ recordSide u = recordSide t ∧ syncSend w u = .next t)
    ∧ (¬s.Audible → SendsNothing s t)

/-- The words `ws`, admitted or dropped one after another (R248). -/
def enqueueAll : List Word → State → Result
  | [], s => .next s
  | w :: ws, s => andThen (enqueue w s) (enqueueAll ws)

/-- From `s` to `t` the words `ws` are handed to `Send` in order, in a state that is not cycle-accurate (R245, R246, R249):
the queue, the slot, the count, the diagnostics and the hold are as `Enqueue` of each leaves them; nothing is sent while a
gate is closed. -/
def SendsAll (ws : List Word) (s t : State) : Prop :=
  (s.BestEffort → ∃ v, enqueueAll ws s = .next v ∧ t.queue = v.queue ∧ t.rsb.message = v.rsb.message
      ∧ t.rsb.sentCount = v.rsb.sentCount ∧ t.diagCount = v.diagCount ∧ t.held = v.held
      ∧ t.events.filter HostEvent.isDiag = v.events.filter HostEvent.isDiag)
    ∧ (¬s.Audible → SendsNothing s t)

/-! ## The memory that a statement says is unchanged -/

/-- The address `a` is a byte of the field `f` of the block at `base` (R64). -/
abbrev inField (base : Word) (f : Field) (a : Nat) : Prop :=
  base.toNat + f.offset ≤ a ∧ a < base.toNat + f.offset + f.size

/-- The base address of the block P writes (R33, R64). -/
def State.blockBase (s : State) : Word :=
  match s.target with
  | .real => s.cfg.rsbAddr
  | .dummy => s.cfg.dsbAddr

/-- The address `a` is a byte of a field that sending a message writes (R248, R252). -/
def inProtocolField (s : State) (a : Nat) : Prop :=
  inField s.cfg.rsbAddr .message a ∨ inField s.cfg.rsbAddr .sentCount a ∨ inField s.cfg.rsbAddr .syncCycle a

/-! ## The instructions that write a channel register (R120, R121) -/

/-- The channel whose register the instruction writes, for the 18 channel-register writes of R120. -/
def channelRegister : Instr → Option Chan
  | .writeSweep1 _ | .writeLenduty1 _ | .writeEnv1 _ | .writeFreqlo1 _ | .writeFreqhi1 _ => some .c0
  | .writeLenduty2 _ | .writeEnv2 _ | .writeFreqlo2 _ | .writeFreqhi2 _ => some .c1
  | .writeDacen3 _ | .writeLen3 _ | .writeLevel3 _ | .writeFreqlo3 _ | .writeFreqhi3 _ => some .c2
  | .writeLen4 _ | .writeEnv4 _ | .writePoly4 _ | .writeTrig4 _ => some .c3
  | _ => none

/-- The write is a trigger that the gate admits (R121, R125, R129, R145): data bit 7 of a trigger register, and for
channel 2 the DAC already on. -/
def admitsTrigger (i : Instr) (s : State) : Bool :=
  match i with
  | .writeFreqhi1 d | .writeFreqhi2 d | .writeTrig4 d => d.getLsbD 7
  | .writeFreqhi3 d => d.getLsbD 7 && s.ch2.dac
  | _ => false

/-- The counters of the timers of channel `c` that run, in the order R121 reports them. -/
def runningCounters (c : Chan) (t : State) : List Int :=
  if (t.voice c).on then
    (if (t.voice c).lenEnable then [(t.voice c).lenCounter] else [])
      ++ (match t.env c with
          | some e => if e.period ≠ 0#3 then [e.counter] else []
          | none => [])
      ++ (if c = .c0 ∧ t.ch0.sweep.time ≠ 0#3 then [t.ch0.sweep.counter] else [])
  else []

/-- Every channel record but that of `c` is the same in `s` and `t`. -/
def OtherChannelsKept (c : Chan) (s t : State) : Prop :=
  (c ≠ .c0 → t.ch0 = s.ch0) ∧ (c ≠ .c1 → t.ch1 = s.ch1) ∧ (c ≠ .c2 → t.ch2 = s.ch2) ∧ (c ≠ .c3 → t.ch3 = s.ch3)

/-- Every channel record is the same in `s` and `t`. -/
def ChannelsKept (s t : State) : Prop := t.ch0 = s.ch0 ∧ t.ch1 = s.ch1 ∧ t.ch2 = s.ch2 ∧ t.ch3 = s.ch3

/-- The mode flags of P (R31 to R34), the configuration, the Sample Buffer, the host storage and the host's remaining
actions are the same in `s` and `t`. -/
def ModesKept (s t : State) : Prop :=
  t.cfg = s.cfg ∧ t.masterEnable = s.masterEnable ∧ t.soundEnabled = s.soundEnabled ∧ t.muted = s.muted
    ∧ t.target = s.target ∧ t.accurateSync = s.accurateSync ∧ t.started = s.started
    ∧ t.sampleBuf = s.sampleBuf ∧ t.io = s.io ∧ t.stream = s.stream

/-- The other producer globals: the two global bytes and P's flip (R30). -/
def BytesKept (s t : State) : Prop :=
  t.masterVolume = s.masterVolume ∧ t.routing = s.routing ∧ t.producerFlip = s.producerFlip

/-- The events that P puts out to the host, diagnostics aside, are the same in `s` and `t` (R46). -/
def NoOutput (s t : State) : Prop :=
  t.events.filter (fun e => !e.isDiag) = s.events.filter (fun e => !e.isDiag)

/-- The address `a` is a byte of a field of the real block that the consumer alone writes (R35). -/
def inConsumerField (s : State) (a : Nat) : Prop :=
  inField s.cfg.rsbAddr .recvCount a ∨ inField s.cfg.rsbAddr .consumerCycle a
    ∨ inField s.cfg.rsbAddr .consumerFlip a ∨ inField s.cfg.rsbAddr .flipInProgress a
    ∨ inField s.cfg.rsbAddr .transferInProgress a

/-- From `s` to `t` no byte of memory changes outside the fields `fs` of the block P writes (none while P is disabled,
R288), outside the fields that sending a message writes, and outside the consumer's own fields while it may move. -/
def MemoryKeptOutside (fs : List Field) (s t : State) : Prop :=
  ∀ a, (s.soundEnabled = true → ∀ f ∈ fs, ¬inField s.blockBase f a) → ¬inProtocolField s a →
    (s.Silent ∨ ¬inConsumerField s a) → t.memByte a = s.memByte a

/-- The fields that a write to a register of channel `c` commits (R121). -/
def committedFields : Chan → List Field
  | .c0 => [.onMask, .vol .c0, .freq .c0, .duty .c0]
  | .c1 => [.onMask, .vol .c1, .freq .c1, .duty .c1]
  | .c2 => [.onMask, .vol .c2, .freq .c2]
  | .c3 => [.onMask, .vol .c3, .freq .c3]

/-- The instruction is one of the six reserved operation codes (R92 (a)). -/
def isReservedCode : Instr → Bool
  | .refusedA _ | .refusedB _ | .refusedC _ | .refusedD _ | .refusedE _ | .refusedF _ => true
  | _ => false

/-! ## What ADVANCE and a resync compute -/

/-- The frequency of channel 0 after `n` sweep steps (R203), in exact arithmetic. -/
def sweptAfter (s : State) : Nat → Nat
  | 0 => s.ch0.freq.toNat
  | n + 1 =>
    let f := sweptAfter s n
    if s.ch0.sweep.down then f - f >>> s.ch0.sweep.shift.toNat else f + f >>> s.ch0.sweep.shift.toNat

/-- A timer that stands at `c` after the elapsed cycles are subtracted fires exactly `n` times with period `p` (R202,
R206): once for each time it is not above 0. -/
def Fires (c p : Int) (n : Nat) : Prop := 0 < c + n * p ∧ ∀ k : Nat, k < n → c + k * p ≤ 0

/-- The sweep of channel 0 always ends: it is off, or its period is not 0 (R215). It is 0 only for sweep time 1 with
`CLOCK_SPEED` below 128 (log entry 11). -/
abbrev State.SweepEnds (s : State) : Prop := s.ch0.sweep.time = 0#3 ∨ 1 ≤ s.cfg.clockSpeed / (128 / s.ch0.sweep.time.toNat)

/-- The sweep of channel 0 ends in an `ADVANCE` of `e` cycles: always when its period is not 0; with a period of 0 when the
channel is off, when the sweep is not due, or when it rises by at least 1 and so overflows (R200, R203, R204). -/
abbrev State.SweepHalts (s : State) (e : BitVec 28) : Prop :=
  s.SweepEnds ∨ s.ch0.voice.on = false ∨ 0 < s.ch0.sweep.counter - e.toNat
    ∨ (s.ch0.sweep.down = false ∧ 0 < s.ch0.freq.toNat >>> s.ch0.sweep.shift.toNat)

/-- The reports that an `ADVANCE` from `s` to `t` makes (R200, R212): the sweep and the envelope of channel 0 unless the sweep
overflowed, the envelopes of channels 1 and 3, even where the length then expired (R217), and the lengths of the channels
still on. -/
def advanceReports (s t : State) : List Int :=
  (if s.ch0.voice.on = true ∧ t.ch0.freq.toNat ≤ 0x7FF then
      (if s.ch0.sweep.time ≠ 0#3 then [t.ch0.sweep.counter] else [])
        ++ (if s.ch0.env.period ≠ 0#3 then [t.ch0.env.counter] else [])
    else [])
    ++ (if s.ch1.voice.on = true ∧ s.ch1.env.period ≠ 0#3 then [t.ch1.env.counter] else [])
    ++ (if s.ch3.voice.on = true ∧ s.ch3.env.period ≠ 0#3 then [t.ch3.env.counter] else [])
    ++ ([Chan.c0, .c1, .c2, .c3].filter fun c => (t.voice c).on && (t.voice c).lenEnable).map
        fun c => (t.voice c).lenCounter

/-- A counter after a slice of `e` cycles, when its timer runs and does not fire. -/
def elapse (e : BitVec 28) (runs : Bool) (c : Int) : Int := if runs then c - e.toNat else c

/-- A voice after a slice in which its length does not expire. -/
def elapsedVoice (e : BitVec 28) (v : Voice) : Voice :=
  { v with lenCounter := elapse e (v.on && v.lenEnable) v.lenCounter }

/-- An envelope after a slice in which it does not fire; `on` is its channel's flag. -/
def elapsedEnvelope (e : BitVec 28) (on : Bool) (v : Envelope) : Envelope :=
  { v with counter := elapse e (on && decide (v.period ≠ 0#3)) v.counter }

/-- A sweep after a slice in which it does not fire; `on` is its channel's flag. -/
def elapsedSweep (e : BitVec 28) (on : Bool) (w : Sweep) : Sweep :=
  { w with counter := elapse e (on && decide (w.time ≠ 0#3)) w.counter }

/-- A frequency with bits 7:0 replaced and bit 11 cleared (R124). -/
def lowReplaced (f : BitVec 12) (d : Byte) : BitVec 12 := BitVec.ofNat 12 (f.toNat / 256 % 8 * 256 + d.toNat)

/-- A frequency with bits 10:8 replaced by data bits 2:0 and bit 11 cleared (R125). -/
def highReplaced (f : BitVec 12) (d : Byte) : BitVec 12 := BitVec.ofNat 12 (d.toNat % 8 * 256 + f.toNat % 256)

/-- An envelope after a trigger (R142). -/
def restarted (cfg : Config) (e : Envelope) : Envelope :=
  { e with vol := e.init, counter := (e.period.toNat * cfg.clockSpeed / 64 : Nat) }

/-- Length cycles for `units` of 1/256 second (R130). -/
def lengthCycles (cfg : Config) (units : Nat) : Int := (units * cfg.clockSpeed / 256 : Nat)

/-- An envelope as `ENV` byte `d` leaves it, and as a trigger loads it when `trig` (R126, R142). -/
def loadedEnvelope (cfg : Config) (d : Byte) (trig : Bool) (e : Envelope) : Envelope where
  vol     := if trig then d.extractLsb' 4 4 else e.vol
  init    := d.extractLsb' 4 4
  up      := d.getLsbD 3
  period  := d.extractLsb' 0 3
  counter := if trig then (d.toNat % 8 * cfg.clockSpeed / 64 : Nat) else e.counter

/-- The 11-bit frequency of a low and a high byte (R124, R125). -/
def loadedFreq (lo hi : Byte) : BitVec 12 := BitVec.ofNat 12 (hi.toNat % 8 * 256 + lo.toNat)

/-- Channel 0 after a resync with the master bit `m`: its stored registers, and its trigger if it was on (R180 to R182). -/
def loadedCh0 (s : State) (m : Bool) : SweptSquare where
  voice := ⟨s.ch0.voice.on, (s.ioByte 0x14#8).getLsbD 6, lengthCycles s.cfg (64 - (s.ioByte 0x11#8).toNat % 64),
    panOf (s.ioByte 0x25#8) .c0⟩
  env   := loadedEnvelope s.cfg (s.ioByte 0x12#8) (m && s.ch0.voice.on) s.ch0.env
  sweep :=
    { time  := (s.ioByte 0x10#8).extractLsb' 4 3
      down  := (s.ioByte 0x10#8).getLsbD 3
      shift := (s.ioByte 0x10#8).extractLsb' 0 3
      counter :=
        if m && s.ch0.voice.on then
          (if (s.ioByte 0x10#8).toNat / 16 % 8 = 0 then 0
           else (s.cfg.clockSpeed / (128 / ((s.ioByte 0x10#8).toNat / 16 % 8)) : Nat))
        else s.ch0.sweep.counter }
  freq  := loadedFreq (s.ioByte 0x13#8) (s.ioByte 0x14#8)
  duty  := (s.ioByte 0x11#8).extractLsb' 6 2
  len   := (s.ioByte 0x11#8).extractLsb' 0 6

/-- Channel 1 after a resync with the master bit `m` (R180 to R182). -/
def loadedCh1 (s : State) (m : Bool) : Square where
  voice := ⟨s.ch1.voice.on, (s.ioByte 0x19#8).getLsbD 6, lengthCycles s.cfg (64 - (s.ioByte 0x16#8).toNat % 64),
    panOf (s.ioByte 0x25#8) .c1⟩
  env   := loadedEnvelope s.cfg (s.ioByte 0x17#8) (m && s.ch1.voice.on) s.ch1.env
  freq  := loadedFreq (s.ioByte 0x18#8) (s.ioByte 0x19#8)
  duty  := (s.ioByte 0x16#8).extractLsb' 6 2
  len   := (s.ioByte 0x16#8).extractLsb' 0 6

/-- Channel 2 after a resync: a stored DAC bit of 0 has switched it off (R150, R181, R182). -/
def loadedCh2 (s : State) : WaveChannel where
  voice := ⟨s.ch2.voice.on && (s.ioByte 0x1A#8).getLsbD 7, (s.ioByte 0x1E#8).getLsbD 6,
    lengthCycles s.cfg (256 - (s.ioByte 0x1B#8).toNat), panOf (s.ioByte 0x25#8) .c2⟩
  freq  := loadedFreq (s.ioByte 0x1D#8) (s.ioByte 0x1E#8)
  vol   := (s.ioByte 0x1C#8).extractLsb' 5 2
  len   := s.ioByte 0x1B#8
  dac   := (s.ioByte 0x1A#8).getLsbD 7

/-- Channel 3 after a resync with the master bit `m` (R180 to R182). -/
def loadedCh3 (s : State) (m : Bool) : NoiseChannel where
  voice := ⟨s.ch3.voice.on, (s.ioByte 0x23#8).getLsbD 6, lengthCycles s.cfg (64 - (s.ioByte 0x20#8).toNat % 64),
    panOf (s.ioByte 0x25#8) .c3⟩
  env   := loadedEnvelope s.cfg (s.ioByte 0x21#8) (m && s.ch3.voice.on) s.ch3.env
  freq  := s.ioByte 0x22#8
  len   := (s.ioByte 0x20#8).extractLsb' 0 6

/-- The Sample Buffer of `t` holds the conversion of the wave bytes that `io` holds (R231, R234). -/
def ConvertedFrom (cfg : Config) (io : Memory) (t : State) : Prop :=
  ∀ j : Fin 16,
    t.sampleBuf.read (2 * j) = cfg.waveTable[((io.read (0x30 + j)).extractLsb' 4 4).toNat]
      ∧ t.sampleBuf.read (2 * j + 1) = cfg.waveTable[((io.read (0x30 + j)).extractLsb' 0 4).toNat]

/-- What a resync from `s` with the master bit `m` leaves in `t` (R180 to R182): every record, global byte and sample as
the host storage gives it, the channels that were on restarted while `m`, and all of it committed while P is enabled. -/
def Resynced (m : Bool) (s t : State) : Prop :=
  t.ch0 = loadedCh0 s m ∧ t.ch1 = loadedCh1 s m ∧ t.ch2 = loadedCh2 s ∧ t.ch3 = loadedCh3 s m
    ∧ t.masterEnable = m ∧ t.masterVolume = s.ioByte 0x24#8 ∧ t.routing = s.ioByte 0x25#8
    ∧ ConvertedFrom s.cfg s.io t
    ∧ (s.soundEnabled = true →
        (∀ i, maskBit t.sb.onMask i = (m && (t.voice i).on)) ∧ t.sb.masterVolume = t.masterVolume
          ∧ t.sb.routing = t.routing
          ∧ ∀ i, t.sb.vol.get i = t.vol i ∧ t.sb.freq.get i = t.freq i
              ∧ t.sb.pan.get i = (t.voice i).pan.setWidth 8
              ∧ (i = .c0 ∨ i = .c1 → t.sb.duty.get i = t.duty i))

/-- `Update(i)` when the dispatched write changed the channel (R121, R183). -/
def updateIf (changed : Bool) (i : Chan) : List Word := if changed then [messageWord .update (.one i)] else []

/-- The messages of a frequency-low and then a frequency-high write without its trigger (R124, R125). -/
def freqMessages (i : Chan) (f : BitVec 12) (lo hi : Byte) : List Word :=
  updateIf (lowReplaced f lo ≠ f) i ++ updateIf (highReplaced (lowReplaced f lo) hi ≠ lowReplaced f lo) i

/-- `Start(i)` when the re-trigger pass restarts the channel (R182). -/
def startIf (restarts : Bool) (i : Chan) : List Word := if restarts then [messageWord .start (.one i)] else []

/-- The messages of a resync from `s` with the master bit `m`, in order (R183): `Update(i)` for each bulk write that changes
its channel, `MasterVolume(ALL)` and `Update(ALL)` from 0x24 and 0x25, and `Start(i)` for each channel that was on, of
channel 2 only with its stored DAC bit, while `m`. -/
def resyncMessages (m : Bool) (s : State) : List Word :=
  updateIf ((s.ioByte 0x11#8).extractLsb' 6 2 ≠ s.ch0.duty) .c0
    ++ freqMessages .c0 s.ch0.freq (s.ioByte 0x13#8) (s.ioByte 0x14#8)
    ++ updateIf ((s.ioByte 0x16#8).extractLsb' 6 2 ≠ s.ch1.duty) .c1
    ++ freqMessages .c1 s.ch1.freq (s.ioByte 0x18#8) (s.ioByte 0x19#8)
    ++ updateIf (s.ch2.voice.on && !(s.ioByte 0x1A#8).getLsbD 7) .c2
    ++ updateIf ((s.ioByte 0x1C#8).extractLsb' 5 2 ≠ s.ch2.vol) .c2
    ++ freqMessages .c2 s.ch2.freq (s.ioByte 0x1D#8) (s.ioByte 0x1E#8)
    ++ updateIf (s.ioByte 0x22#8 ≠ s.ch3.freq) .c3
    ++ [messageWord .masterVolume .all, messageWord .update .all]
    ++ startIf (m && s.ch0.voice.on) .c0 ++ startIf (m && s.ch1.voice.on) .c1
    ++ startIf (m && (s.ch2.voice.on && (s.ioByte 0x1A#8).getLsbD 7)) .c2 ++ startIf (m && s.ch3.voice.on) .c3

/-- What a resync from `s` has to do, in order (R180): dispatch 0x10 to 0x3F without 0x26, ascending, and then re-trigger the
four channels by the on flags they had. -/
def resyncWork (s : State) : List Task :=
  (((List.range 48).map fun k => BitVec.ofNat 8 (0x10 + k)).filter fun a => a != 0x26#8).map Task.bulk
    ++ [Chan.c0, .c1, .c2, .c3].map fun i => Task.retrigger i (s.voice i).on

/-- The fields of the block P writes that a resync commits (R121, R170, R172, R180). -/
def resyncFields : List Field :=
  [.onMask, .masterVolume, .routing, .vol .c0, .vol .c1, .vol .c2, .vol .c3, .freq .c0, .freq .c1, .freq .c2,
   .freq .c3, .pan .c0, .pan .c1, .pan .c2, .pan .c3, .duty .c0, .duty .c1]

/-- From `s` to `t` no byte of memory changes outside the Sample Buffer, the fields `fs` of the block P writes (none while P
is disabled, R288) and the fields that sending a message writes. -/
def BlocksKeptOutside (fs : List Field) (s t : State) : Prop :=
  ∀ a, ¬(s.cfg.sampleBufAddr.toNat ≤ a ∧ a < s.cfg.sampleBufAddr.toNat + sampleBufSize) →
    (s.soundEnabled = true → ∀ f ∈ fs, ¬inField s.blockBase f a) → ¬inProtocolField s a → t.memByte a = s.memByte a

/-! ## The invariants -/

/-- The byte memories have their canonical form and no byte outside their range (R60). -/
def MemoryInv (s : State) : Prop :=
  s.io.wf = true ∧ s.sampleBuf.wf = true
    ∧ (∀ c ∈ s.io, 0x10 ≤ c.1 ∧ c.1 < 0x40) ∧ (∀ c ∈ s.sampleBuf, 0 ≤ c.1 ∧ c.1 < 32)

/-- `P.target = REAL` exactly when `P.muted = 0` (R33). -/
def TargetInv (s : State) : Prop := s.target = .real ↔ s.muted = false

/-- Every pan is the one the routing byte gives (R24). -/
def PanInv (s : State) : Prop := ∀ i, (s.voice i).pan = panOf s.routing i

/-- The counters stay in `[−2^28, CLOCK_SPEED]`, and those of a channel that is on, and every envelope counter, are not
below 0 (R215). -/
def CounterInv (s : State) : Prop :=
  (∀ i, -(2 ^ 28 : Int) ≤ (s.voice i).lenCounter ∧ (s.voice i).lenCounter ≤ s.cfg.clockSpeed
      ∧ ((s.voice i).on = true → 0 ≤ (s.voice i).lenCounter))
    ∧ (∀ i e, s.env i = some e → 0 ≤ e.counter ∧ e.counter ≤ s.cfg.clockSpeed)
    ∧ (-(2 ^ 28 : Int) ≤ s.ch0.sweep.counter ∧ s.ch0.sweep.counter ≤ s.cfg.clockSpeed
      ∧ (s.ch0.voice.on = true → 0 ≤ s.ch0.sweep.counter))
    ∧ (-(2 ^ 28 : Int) ≤ s.nextEvent ∧ s.nextEvent ≤ noEvent)

/-- The next-event minimum is at most every running counter (R212), which is why an `ADVANCE` below it is quiet (R213). -/
def NextEventInv (s : State) : Prop := ∀ c, ∀ n ∈ runningCounters c s, s.nextEvent ≤ n

/-- The frequency of a channel 0, 1 or 2 that is on has 11 bits (R22). -/
def FreqInv (s : State) : Prop :=
  ∀ i, (s.voice i).on = true → (s.freq i).toNat ≤ 0x7FF

/-- An on-bit of the real block is set only for a channel that is on, while P is neither muted nor disabled (R51). -/
def OnMaskInv (s : State) : Prop :=
  s.muted = false → s.soundEnabled = true →
    ∀ i, maskBit s.rsb.onMask i = true → (s.voice i).on = true

/-- The word is a form that P produces (R111). -/
abbrev IsForm (w : Word) : Prop := (messageForm w).isSome = true

/-- The queue is within its capacity (R48), and every word in it, in P's hold or in the consumer's hand is a form of R111
(R112). -/
def QueueInv (s : State) : Prop :=
  s.queue.length ≤ s.cfg.queueCapacity ∧ (∀ w ∈ s.queue, IsForm w)
    ∧ (∀ h, s.held = some h → IsForm h.word) ∧ (∀ w, s.consumer.dequeued = some w → IsForm w)

/-- The outstanding count is the length of the queue, and one more while the consumer has removed a word and not counted
it (R247), modulo 2^32. -/
def CountInv (s : State) : Prop :=
  s.outstanding = BitVec.ofNat 32 (s.queue.length + (if s.consumer.dequeued.isSome then 1 else 0))

/-- `syncCycle` holds SENTINEL whenever P is not inside a wait (R252). -/
def HandshakeInv (s : State) : Prop := s.held = none → s.rsb.syncCycle = sentinel

end Sys2Proof.Machine
end

