-- ==== Sys2Proof/Certificates/Slice0/Obligations.lean ====
section
/-! DEFINITION. The statements about GYSND, each one a proposition over the model. OBLIGATIONS.json gives the rule of the
spec that each formalises, or the sections it rests on. A conclusion `∃ t, exec i s = .next t ∧ …` says that the instruction
completes in `s`, with what the state then holds. -/

open Sys2Proof Sys2Proof.Machine

/-! ## Encoding (30_encoding.md) -/

/-- R90, R91, R110: decoding the word of a well-formed instruction, with the decoder of its interface, gives it back. -/
def Obligations.DecodeInvertsEncode : Prop :=
  ∀ i : Instr, WellFormed i →
    (i.interface = .operation → decodeOperation (encode i) = .ok i)
      ∧ (i.interface = .message → decodeMessage (encode i) = i)

/-- R90, R110: a decoded instruction encodes to the word it was read from, so no bit of a word is dropped. -/
def Obligations.EncodeInvertsDecode : Prop :=
  (∀ (w : Word) (i : Instr), decodeOperation w = .ok i →
      i.interface = .operation ∧ WellFormed i ∧ encode i = w)
    ∧ ∀ w : Word, (decodeMessage w).interface = .message ∧ WellFormed (decodeMessage w)
        ∧ encode (decodeMessage w) = w

/-- R92: in a state where the host may issue operations, a word is refused exactly when its code is 0xA to 0xF or a field
that R91 marks "must be 0" is not 0. So a `WRITE` outside the window is not refused. -/
def Obligations.RefusedWordsAreExactlyTheseOfR92 : Prop :=
  ∀ (s : State) (w : Word), s.Ready → s.Silent →
    ((∃ x, runWord w s = .refused x) ↔
      0xA ≤ w.toNat / 2 ^ 28
        ∨ (w.toNat / 2 ^ 28 = 0 ∧ w.toNat / 2 ^ 16 % 2 ^ 12 ≠ 0)
        ∨ (2 ≤ w.toNat / 2 ^ 28 ∧ w.toNat / 2 ^ 28 ≤ 7 ∧ w.toNat % 2 ^ 28 ≠ 0)
        ∨ (8 ≤ w.toNat / 2 ^ 28 ∧ w.toNat / 2 ^ 28 ≤ 9 ∧ 2 ≤ w.toNat % 2 ^ 28))

/-- R91, R93, R110, R111: words written out from the tables decode to the instructions they stand for. -/
def Obligations.SampleWordsDecode : Prop :=
  decodeOperation 0x00001029#32 = .ok (.writeSweep1 0x29#8)
    ∧ decodeOperation 0x00001484#32 = .ok (.writeFreqhi1 0x84#8)
    ∧ decodeOperation 0x0000193A#32 = .ok (.writeFreqhi2 0x3A#8)
    ∧ decodeOperation 0x00001A80#32 = .ok (.writeDacen3 0x80#8)
    ∧ decodeOperation 0x00002208#32 = .ok (.writePoly4 0x08#8)
    ∧ decodeOperation 0x00002477#32 = .ok (.writeMastervol 0x77#8)
    ∧ decodeOperation 0x000025F3#32 = .ok (.writeRouting 0xF3#8)
    ∧ decodeOperation 0x00002680#32 = .ok (.writeMasteren 0x80#8)
    ∧ decodeOperation 0x00003F80#32 = .ok (.writeWave 0xF#4 0x80#8)
    ∧ decodeOperation 0x000015FF#32 = .ok (.writeUnmapped15 0xFF#8)
    ∧ decodeOperation 0x0000FF01#32 = .ok (.writeOutF 0xF#4 0x01#8)
    ∧ decodeOperation 0x10010000#32 = .ok (.advance 65536#28)
    ∧ decodeOperation 0x20000000#32 = .ok .getnext
    ∧ decodeOperation 0x40000000#32 = .ok .init
    ∧ decodeOperation 0x90000001#32 = .ok (.setsync true)
    ∧ decodeMessage 0x00000002#32 = .msgStart .c2
    ∧ decodeMessage 0x00000013#32 = .msgUpdate .c3
    ∧ decodeMessage 0x0000001F#32 = .msgUpdateAll
    ∧ decodeMessage 0x0000002F#32 = .msgMasterVolumeAll
    ∧ decodeMessage 0x0000004F#32 = .msgUnmuteAll

/-! ## The step -/

/-- R8: when P does not hold, the step takes the host's next word and, after an opportunity of the consumer, runs exactly the
instruction it decodes to; an opportunity with no move listed changes nothing. A word that does not decode is refused. -/
def Obligations.StepRunsTheDecodedOperation : Prop :=
  ∀ (s u : State) (w : Word) (rest : List HostAction),
    configAdmitted s.cfg = true → s.held = none → s.stream = .op w :: rest →
    consumerTurn { s with stream := rest } = .next u →
      (∀ i, decodeOperation w = .ok i → step s = exec i u)
        ∧ (∀ e, decodeOperation w = .error e → step s = .refused .mustBeZero)
        ∧ (s.Silent → u = { s with stream := rest })

/-- R44, R60, R341: a store of the host sets that byte of its register storage and nothing else. A store to an address outside
0x10 to 0x3F is the fault noSuchAddress: the model's choice (DESIGN CHOICE, log entry 20), drawn from R60, which gives the
storage no other address. -/
def Obligations.StepStoresTheHostByte : Prop :=
  ∀ (s u : State) (a d : Byte) (rest : List HostAction),
    configAdmitted s.cfg = true → s.held = none → s.stream = .store a d :: rest →
    consumerTurn { s with stream := rest } = .next u → s.io.wf = true →
      ((0x10 ≤ a.toNat ∧ a.toNat ≤ 0x3F) →
        ∃ t, step s = .next t ∧ t = { u with io := t.io }
          ∧ ∀ b, t.ioByte b = if b = a then d else u.ioByte b)
      ∧ (¬(0x10 ≤ a.toNat ∧ a.toNat ≤ 0x3F) → step s = .fault .noSuchAddress)

/-- R47: no step changes the configuration. R33: the target follows the mute flag. R24: every pan is the routing's. R22: the
frequency of a channel that is on has 11 bits. R60: the byte memories keep their canonical form and their range. -/
def Obligations.StepKeepsTheRecordInvariants : Prop :=
  ∀ s t : State, step s = .next t →
    t.cfg = s.cfg ∧ (TargetInv s → TargetInv t) ∧ (PanInv s → PanInv t) ∧ (FreqInv s → FreqInv t)
      ∧ (MemoryInv s → MemoryInv t)

/-- R215: every counter stays in [−2^28, CLOCK_SPEED]. R212, R213: the next-event minimum stays at most every running
counter. -/
def Obligations.StepKeepsTheCounterBounds : Prop :=
  ∀ s t : State, step s = .next t → (CounterInv s → CounterInv t) ∧ (NextEventInv s → NextEventInv t)

/-- R51: an on-bit of the real block is set only for a channel that is on, while P is neither muted nor disabled. -/
def Obligations.StepKeepsTheOnMask : Prop :=
  ∀ s t : State, step s = .next t → TargetInv s → OnMaskInv s → OnMaskInv t

/-- R48, R111, R112: the queue stays within its capacity, and only forms of R111 are in it, in P's hold or in C's hand. -/
def Obligations.StepKeepsTheQueue : Prop :=
  ∀ s t : State, step s = .next t → QueueInv s → QueueInv t

/-- R247: the outstanding count is the queue's length, plus one while C has removed a word and not counted it. -/
def Obligations.StepKeepsTheOutstandingCount : Prop :=
  ∀ s t : State, step s = .next t → CountInv s → CountInv t

/-- R252: the handshake cell holds SENTINEL whenever P is not inside a wait. -/
def Obligations.StepKeepsTheHandshakeCell : Prop :=
  ∀ s t : State, step s = .next t → HandshakeInv s → HandshakeInv t

/-- Every invariant holds at reset. Log entries 2, 6 and 7: the reset state is the model's choice of the state after
`INIT`. -/
def Obligations.ResetMeetsTheInvariants : Prop :=
  TargetInv State.reset ∧ PanInv State.reset ∧ FreqInv State.reset ∧ MemoryInv State.reset
    ∧ CounterInv State.reset ∧ OnMaskInv State.reset ∧ QueueInv State.reset ∧ CountInv State.reset
    ∧ HandshakeInv State.reset ∧ NextEventInv State.reset ∧ State.reset.Ready

/-! ## Completion -/

/-- R91, R300: every operation completes in every state where the host may issue it and the consumer makes no move; `INIT`
too, unless a consumer move is half done (R281); `ADVANCE` too, unless its sweep is due with a period of 0 and never
overflows (log entry 11, DEDUCED). Ready is: an admitted configuration, an `INIT` executed, P not holding. -/
def Obligations.EveryOperationCompletes : Prop :=
  ∀ (i : Instr) (s : State), i.interface = .operation → isReservedCode i = false → s.Ready → s.Silent →
    (i = .init → s.consumerActive = false) → (∀ e, i = .advance e → s.SweepHalts e) → ∃ t, exec i s = .next t

/-- R262: a message word that C has removed from the queue is counted, and nothing else changes. That this counting, C's
second step of Dequeue, is the meaning of the six message rows of R111 is the model's reading (DEDUCED, log entry 13). -/
def Obligations.MessagesAreCounted : Prop :=
  ∀ (i : Instr) (s : State), i.interface = .message → (∀ w, i ≠ .msgReserved w) → s.started = true →
    s.consumer.dequeued = some (encode i) →
      exec i s = .next { s with
        rsb := { s.rsb with recvCount := s.rsb.recvCount + 1 }
        consumer := { s.consumer with dequeued := none } }
      ∧ consumerMove .finishDequeue s = exec i s

/-- R92 (a), R112, R309 (a) and (d): a reserved operation code has no step, and a reserved message word is a fault of the
environment, in every state; so is C's counting of one. -/
def Obligations.ReservedEncodingsStop : Prop :=
  (∀ (i : Instr) (s : State), isReservedCode i = true → exec i s = .refused .reservedOperation)
    ∧ (∀ (w : Word) (s : State), exec (.msgReserved w) s = .fault (.reservedMessage w))
    ∧ ∀ (w : Word) (s : State), messageForm w = none → s.consumer.dequeued = some w →
        consumerMove .finishDequeue s = .fault (.reservedMessage w)

/-- R330, R309 (b), (e), (f): what is refused before it runs. Before the first `INIT` no other operation is admitted, and the
consumer may make no move; in a configuration outside its range no operation and no step is; and a partial or misaligned
access of the consumer to the real block is refused. Whether such an input ends in a refusal or in a named fault is the
model's choice (DESIGN CHOICE, log entry 23). So is a part of the range itself (DESIGN CHOICE, log entry 9): that a Sample Buffer
overlapping a block, and a block or buffer past the end of the 32-bit space, are outside it. -/
def Obligations.NothingRunsBeforeInit : Prop :=
  (∀ (i : Instr) (s : State), s.started = false → configAdmitted s.cfg = true → isReservedCode i = false →
    (i.interface = .operation → i ≠ .init → exec i s = .refused .beforeInit)
      ∧ (i.interface = .message → WellFormed i → (∀ w, i ≠ .msgReserved w) →
          exec i s = .fault .consumerBeforeInit)
      ∧ ∀ m ms, consumerMoves (m :: ms) s = .fault .consumerBeforeInit)
    ∧ (∀ s : State, configAdmitted s.cfg = false →
      step s = .refused .badConfiguration
        ∧ ∀ i : Instr, i.interface = .operation → isReservedCode i = false → exec i s = .refused .badConfiguration)
    ∧ ∀ (s : State) (k n : Nat) (v : Word), configAdmitted s.cfg = true → k < 52 →
      (∀ f : Field, ¬(f.offset = k ∧ f.size = n)) →
        consumerMove (.read (s.cfg.rsbAddr + BitVec.ofNat 32 k) n) s = .refused .partialAccess
          ∧ consumerMove (.write (s.cfg.rsbAddr + BitVec.ofNat 32 k) n v) s = .refused .partialAccess

/-! ## The channel registers (40_register_dispatcher.md) -/

/-- R130: the length reload, and its range. -/
def Obligations.LengthReloadIsR130 : Prop :=
  ∀ (cfg : Config) (s : State) (c : Chan), configAdmitted cfg = true →
    lenReload cfg c (s.len c)
        = (((match c with | .c0 => 64 | .c1 => 64 | .c2 => 256 | .c3 => 64) - s.len c) * cfg.clockSpeed / 256 : Nat)
      ∧ (cfg.clockSpeed / 256 : Nat) ≤ lenReload cfg c (s.len c) ∧ lenReload cfg c (s.len c) ≤ cfg.clockSpeed

/-- R122, R126: `SWEEP1` and `ENV1/2/4` write their fields, load no counter and no volume, and send nothing. -/
def Obligations.SweepAndEnvelopeWrites : Prop :=
  ∀ (s : State) (d : Byte), s.Ready → s.Silent →
    (∃ t, exec (.writeSweep1 d) s = .next t ∧ SendsNothing s t
      ∧ t.ch0 = { s.ch0 with sweep := { s.ch0.sweep with
          time := d.extractLsb' 4 3, down := d.getLsbD 3, shift := d.extractLsb' 0 3 } })
    ∧ (∃ t, exec (.writeEnv1 d) s = .next t ∧ SendsNothing s t
      ∧ t.ch0 = { s.ch0 with env := { s.ch0.env with
          init := d.extractLsb' 4 4, up := d.getLsbD 3, period := d.extractLsb' 0 3 } })
    ∧ (∃ t, exec (.writeEnv2 d) s = .next t ∧ SendsNothing s t
      ∧ t.ch1 = { s.ch1 with env := { s.ch1.env with
          init := d.extractLsb' 4 4, up := d.getLsbD 3, period := d.extractLsb' 0 3 } })
    ∧ (∃ t, exec (.writeEnv4 d) s = .next t ∧ SendsNothing s t
      ∧ t.ch3 = { s.ch3 with env := { s.ch3.env with
          init := d.extractLsb' 4 4, up := d.getLsbD 3, period := d.extractLsb' 0 3 } })

/-- R123: `LENDUTY1/2` write duty and length data and reload the length counter; only a changed duty sends `Update(i)`. -/
def Obligations.LengthDutyWrites : Prop :=
  ∀ (s : State) (d : Byte), s.Ready → s.Silent →
    (∃ t, exec (.writeLenduty1 d) s = .next t
      ∧ t.ch0 = { s.ch0 with
          duty := d.extractLsb' 6 2, len := d.extractLsb' 0 6
          voice := { s.ch0.voice with lenCounter := lengthCycles s.cfg (64 - d.toNat % 64) } }
      ∧ (if d.extractLsb' 6 2 ≠ s.ch0.duty then Sends 0x10#32 s t else SendsNothing s t))
    ∧ (∃ t, exec (.writeLenduty2 d) s = .next t
      ∧ t.ch1 = { s.ch1 with
          duty := d.extractLsb' 6 2, len := d.extractLsb' 0 6
          voice := { s.ch1.voice with lenCounter := lengthCycles s.cfg (64 - d.toNat % 64) } }
      ∧ (if d.extractLsb' 6 2 ≠ s.ch1.duty then Sends 0x11#32 s t else SendsNothing s t))

/-- R124: `FREQLO1/2/3` replace frequency bits 7:0 and clear bit 11; a changed frequency sends `Update(i)`. -/
def Obligations.FrequencyLowWrites : Prop :=
  ∀ (s : State) (d : Byte), s.Ready → s.Silent →
    (∃ t, exec (.writeFreqlo1 d) s = .next t ∧ t.ch0 = { s.ch0 with freq := lowReplaced s.ch0.freq d }
      ∧ (if lowReplaced s.ch0.freq d ≠ s.ch0.freq then Sends 0x10#32 s t else SendsNothing s t))
    ∧ (∃ t, exec (.writeFreqlo2 d) s = .next t ∧ t.ch1 = { s.ch1 with freq := lowReplaced s.ch1.freq d }
      ∧ (if lowReplaced s.ch1.freq d ≠ s.ch1.freq then Sends 0x11#32 s t else SendsNothing s t))
    ∧ (∃ t, exec (.writeFreqlo3 d) s = .next t ∧ t.ch2 = { s.ch2 with freq := lowReplaced s.ch2.freq d }
      ∧ (if lowReplaced s.ch2.freq d ≠ s.ch2.freq then Sends 0x12#32 s t else SendsNothing s t))

/-- R125, R129, R145: `FREQHI1/2/3` and `TRIG4` without an admitted trigger write the frequency bits 10:8 and the length
enable only; the wave channel's trigger is not admitted while its DAC is off. A changed frequency sends `Update(i)`. -/
def Obligations.FrequencyHighWritesWithoutTrigger : Prop :=
  ∀ (s : State) (d : Byte), s.Ready → s.Silent →
    (d.getLsbD 7 = false →
      (∃ t, exec (.writeFreqhi1 d) s = .next t
        ∧ t.ch0 = { s.ch0 with
            freq := highReplaced s.ch0.freq d, voice := { s.ch0.voice with lenEnable := d.getLsbD 6 } }
        ∧ (if highReplaced s.ch0.freq d ≠ s.ch0.freq then Sends 0x10#32 s t else SendsNothing s t))
      ∧ (∃ t, exec (.writeFreqhi2 d) s = .next t
        ∧ t.ch1 = { s.ch1 with
            freq := highReplaced s.ch1.freq d, voice := { s.ch1.voice with lenEnable := d.getLsbD 6 } }
        ∧ (if highReplaced s.ch1.freq d ≠ s.ch1.freq then Sends 0x11#32 s t else SendsNothing s t))
      ∧ (∃ t, exec (.writeTrig4 d) s = .next t ∧ SendsNothing s t
        ∧ t.ch3 = { s.ch3 with voice := { s.ch3.voice with lenEnable := d.getLsbD 6 } }))
    ∧ (d.getLsbD 7 = false ∨ s.ch2.dac = false →
      ∃ t, exec (.writeFreqhi3 d) s = .next t
        ∧ t.ch2 = { s.ch2 with
            freq := highReplaced s.ch2.freq d, voice := { s.ch2.voice with lenEnable := d.getLsbD 6 } }
        ∧ (if highReplaced s.ch2.freq d ≠ s.ch2.freq then Sends 0x12#32 s t else SendsNothing s t))

/-- R125, R129, R140 to R145: a trigger writes its fields, switches the channel on, reloads the length counter whatever the
length enable is, the envelope of channels 0, 1 and 3 and the sweep counter of channel 0, and sends `Start(i)` only. -/
def Obligations.TriggersRestartTheChannel : Prop :=
  ∀ (s : State) (d : Byte), s.Ready → s.Silent → d.getLsbD 7 = true →
    (∃ t, exec (.writeFreqhi1 d) s = .next t ∧ Sends 0x00#32 s t
      ∧ t.ch0 = { s.ch0 with
          freq := highReplaced s.ch0.freq d, env := restarted s.cfg s.ch0.env
          voice := ⟨true, d.getLsbD 6, lengthCycles s.cfg (64 - s.ch0.len.toNat), s.ch0.voice.pan⟩
          sweep := { s.ch0.sweep with counter :=
            if s.ch0.sweep.time.toNat = 0 then 0
            else (s.cfg.clockSpeed / (128 / s.ch0.sweep.time.toNat) : Nat) } })
    ∧ (∃ t, exec (.writeFreqhi2 d) s = .next t ∧ Sends 0x01#32 s t
      ∧ t.ch1 = { s.ch1 with
          freq := highReplaced s.ch1.freq d, env := restarted s.cfg s.ch1.env
          voice := ⟨true, d.getLsbD 6, lengthCycles s.cfg (64 - s.ch1.len.toNat), s.ch1.voice.pan⟩ })
    ∧ (s.ch2.dac = true → ∃ t, exec (.writeFreqhi3 d) s = .next t ∧ Sends 0x02#32 s t
      ∧ t.ch2 = { s.ch2 with
          freq := highReplaced s.ch2.freq d
          voice := ⟨true, d.getLsbD 6, lengthCycles s.cfg (256 - s.ch2.len.toNat), s.ch2.voice.pan⟩ })
    ∧ (∃ t, exec (.writeTrig4 d) s = .next t ∧ Sends 0x03#32 s t
      ∧ t.ch3 = { s.ch3 with
          env := restarted s.cfg s.ch3.env
          voice := ⟨true, d.getLsbD 6, lengthCycles s.cfg (64 - s.ch3.len.toNat), s.ch3.voice.pan⟩ })

/-- R150: `DACEN3` writes the DAC flag; switching it off switches channel 2 off, which sends `Update(2)`; switching it on
starts nothing. -/
def Obligations.DacWrites : Prop :=
  ∀ (s : State) (d : Byte), s.Ready → s.Silent →
    ∃ t, exec (.writeDacen3 d) s = .next t
      ∧ t.ch2 = { s.ch2 with
          dac := d.getLsbD 7, voice := { s.ch2.voice with on := s.ch2.voice.on && d.getLsbD 7 } }
      ∧ (if s.ch2.voice.on = true ∧ d.getLsbD 7 = false then Sends 0x12#32 s t else SendsNothing s t)

/-- R127, R128, R152, R160: `LEN3` and `LEN4` write the length data and reload the counter, and never send; `LEVEL3` writes
the level code and `POLY4` the raw byte, and a change sends `Update(i)`. -/
def Obligations.LengthLevelAndPolyWrites : Prop :=
  ∀ (s : State) (d : Byte), s.Ready → s.Silent →
    (∃ t, exec (.writeLen3 d) s = .next t ∧ SendsNothing s t
      ∧ t.ch2 = { s.ch2 with
          len := d, voice := { s.ch2.voice with lenCounter := lengthCycles s.cfg (256 - d.toNat) } })
    ∧ (∃ t, exec (.writeLen4 d) s = .next t ∧ SendsNothing s t
      ∧ t.ch3 = { s.ch3 with
          len := d.extractLsb' 0 6
          voice := { s.ch3.voice with lenCounter := lengthCycles s.cfg (64 - d.toNat % 64) } })
    ∧ (∃ t, exec (.writeLevel3 d) s = .next t ∧ t.ch2 = { s.ch2 with vol := d.extractLsb' 5 2 }
      ∧ (if d.extractLsb' 5 2 ≠ s.ch2.vol then Sends 0x12#32 s t else SendsNothing s t))
    ∧ (∃ t, exec (.writePoly4 d) s = .next t ∧ t.ch3 = { s.ch3 with freq := d }
      ∧ (if d ≠ s.ch3.freq then Sends 0x13#32 s t else SendsNothing s t))

/-- R121, R37: what the frame of the 18 channel-register writes commits, sends and reports. The parameters of the channel
are committed as its record then holds them; its on-bit is set by a trigger and cleared when the write switched it off;
a trigger sends `Start(i)`, else a changed on flag, volume, frequency or duty sends `Update(i)`; the running timers are
reported. -/
def Obligations.ChannelWritesFollowTheFrame : Prop :=
  ∀ (i : Instr) (c : Chan) (s : State), channelRegister i = some c → s.Ready → s.Silent →
    ∃ t, exec i s = .next t
      ∧ (s.soundEnabled = true →
          t.sb.vol.get c = t.vol c ∧ t.sb.freq.get c = t.freq c ∧ (c = .c0 ∨ c = .c1 → t.sb.duty.get c = t.duty c)
            ∧ ∀ j, maskBit t.sb.onMask j
                = if j ≠ c then maskBit s.sb.onMask j
                  else if admitsTrigger i s = true then true
                  else if (s.voice c).on = true ∧ (t.voice c).on = false then false
                  else maskBit s.sb.onMask c)
      ∧ (if admitsTrigger i s = true then Sends (messageWord .start (.one c)) s t
         else if t.params c ≠ s.params c then Sends (messageWord .update (.one c)) s t
         else SendsNothing s t)
      ∧ t.nextEvent = (runningCounters c t).foldl min s.nextEvent

/-- R121, R20, R288: a channel-register write changes no other channel, no global but the next-event minimum, puts out no
event, and changes no byte of memory outside the parameters it commits (none while P is disabled) and the fields a
message writes, whatever the consumer does meanwhile in its own fields. -/
def Obligations.ChannelWriteFrame : Prop :=
  ∀ (i : Instr) (c : Chan) (s t : State), channelRegister i = some c → exec i s = .next t →
    OtherChannelsKept c s t ∧ ModesKept s t ∧ BytesKept s t ∧ NoOutput s t
      ∧ MemoryKeptOutside (committedFields c) s t

/-! ## The global registers, wave RAM and unmapped addresses (41, 43) -/

/-- R170: `MASTERVOL` stores and commits the byte and sends `MasterVolume(ALL)`, on every write; nothing else changes. -/
def Obligations.MasterVolumeWrites : Prop :=
  ∀ (s : State) (d : Byte), s.Ready → s.Silent →
    ∃ t, exec (.writeMastervol d) s = .next t ∧ t.masterVolume = d
      ∧ (s.soundEnabled = true → t.sb.masterVolume = d) ∧ Sends 0x2F#32 s t
      ∧ ChannelsKept s t ∧ ModesKept s t ∧ t.routing = s.routing ∧ t.producerFlip = s.producerFlip
      ∧ t.nextEvent = s.nextEvent ∧ NoOutput s t ∧ MemoryKeptOutside [.masterVolume] s t

/-- R172, R24: `ROUTING` stores the byte, derives and commits the four pans, commits the byte and sends `Update(ALL)`, on
every write; nothing else changes. -/
def Obligations.RoutingWrites : Prop :=
  ∀ (s : State) (d : Byte), s.Ready → s.Silent →
    ∃ t, exec (.writeRouting d) s = .next t ∧ t.routing = d
      ∧ (∀ i, (t.voice i).pan = BitVec.ofBool (d.getLsbD (i.index + 4)) ++ BitVec.ofBool (d.getLsbD i.index))
      ∧ (s.soundEnabled = true → t.sb.routing = d ∧ ∀ i, t.sb.pan.get i = (t.voice i).pan.setWidth 8)
      ∧ Sends 0x1F#32 s t
      ∧ t.ch0 = { s.ch0 with voice := { s.ch0.voice with pan := t.ch0.voice.pan } }
      ∧ t.ch1 = { s.ch1 with voice := { s.ch1.voice with pan := t.ch1.voice.pan } }
      ∧ t.ch2 = { s.ch2 with voice := { s.ch2.voice with pan := t.ch2.voice.pan } }
      ∧ t.ch3 = { s.ch3 with voice := { s.ch3.voice with pan := t.ch3.voice.pan } }
      ∧ ModesKept s t ∧ t.masterVolume = s.masterVolume ∧ t.producerFlip = s.producerFlip
      ∧ t.nextEvent = s.nextEvent ∧ NoOutput s t
      ∧ MemoryKeptOutside [.routing, .pan .c0, .pan .c1, .pan .c2, .pan .c3] s t

/-- R178: a master write of the current state, either way, changes no state and sends no message. -/
def Obligations.RepeatedMasterWritesDoNothing : Prop :=
  ∀ (s : State) (d : Byte), s.Ready → d.getLsbD 7 = s.masterEnable → exec (.writeMasteren d) s = .next s

/-- R176: a master disable clears the master bit, commits a whole on-mask of 0 and sends `Update(ALL)`; every channel, its
on flag and its counters stay, and no deactivation is signalled. -/
def Obligations.MasterDisableClearsTheOnMask : Prop :=
  ∀ (s : State) (d : Byte), s.Ready → s.Silent → s.masterEnable = true → d.getLsbD 7 = false →
    ∃ t, exec (.writeMasteren d) s = .next t ∧ t.masterEnable = false
      ∧ (s.soundEnabled = true → t.sb.onMask = 0#4) ∧ Sends 0x1F#32 s t
      ∧ ChannelsKept s t ∧ BytesKept s t ∧ ModesKept { s with masterEnable := false } t
      ∧ t.nextEvent = s.nextEvent ∧ NoOutput s t ∧ MemoryKeptOutside [.onMask] s t

/-- R177, R180 to R183, R285: a master enable and a `REFRESH` replay the host storage through the dispatcher. In every mode
they are the passes of R180, run in order after the first commits. When no `Send` of the state holds P (best effort, or a gate
closed), every record, global byte and sample is afterwards what the storage gives; the channels that were on, and no others,
are restarted when the master bit is set; all of it is committed; and the messages of R183 are sent, in order. `REFRESH` takes
the master bit from the storage and publishes the two flags again. Nothing else changes but what its messages change. -/
def Obligations.ResyncReplaysTheHostStorage : Prop :=
  (∀ s : State, s.Ready →
    exec .refresh s = runTasks (resyncWork s)
        (commit .onMask 0 (commit .hyperSync (flagWord s.accurateSync) (commit .producerFlip (flagWord s.producerFlip)
          { s with masterEnable := (s.ioByte 0x26#8).getLsbD 7 })))
      ∧ ∀ d : Byte, d.getLsbD 7 = true → s.masterEnable = false →
          exec (.writeMasteren d) s = runTasks (resyncWork s) (commit .onMask 0 { s with masterEnable := true }))
    ∧ ∀ s : State, s.Ready → s.Silent → s.NeverHolds → MemoryInv s →
      (∃ t, exec .refresh s = .next t ∧ Resynced ((s.ioByte 0x26#8).getLsbD 7) s t
        ∧ SendsAll (resyncMessages ((s.ioByte 0x26#8).getLsbD 7) s) s t
        ∧ (s.soundEnabled = true → t.sb.hyperSync = s.accurateSync ∧ t.sb.producerFlip = s.producerFlip)
        ∧ t.producerFlip = s.producerFlip
        ∧ ModesKept { s with masterEnable := t.masterEnable, sampleBuf := t.sampleBuf } t
        ∧ NoOutput s t ∧ t.nextEvent ≤ s.nextEvent ∧ t.held = none
        ∧ BlocksKeptOutside (.hyperSync :: .producerFlip :: resyncFields) s t)
      ∧ (∀ d : Byte, d.getLsbD 7 = true → s.masterEnable = false →
        ∃ t, exec (.writeMasteren d) s = .next t ∧ Resynced true s t ∧ SendsAll (resyncMessages true s) s t
          ∧ t.producerFlip = s.producerFlip
          ∧ ModesKept { s with masterEnable := true, sampleBuf := t.sampleBuf } t ∧ NoOutput s t
          ∧ t.nextEvent ≤ s.nextEvent ∧ t.held = none ∧ BlocksKeptOutside resyncFields s t)

/-- R190: a write to an unmapped address of the window changes nothing, and so does its dispatch in a resync. -/
def Obligations.UnmappedWritesDoNothing : Prop :=
  ∀ (s : State) (d : Byte), s.Ready →
    exec (.writeUnmapped15 d) s = .next s ∧ exec (.writeUnmapped1F d) s = .next s
      ∧ exec (.writeUnmapped27 d) s = .next s ∧ exec (.writeUnmapped28 d) s = .next s
      ∧ exec (.writeUnmapped29 d) s = .next s ∧ exec (.writeUnmapped2A d) s = .next s
      ∧ exec (.writeUnmapped2B d) s = .next s ∧ exec (.writeUnmapped2C d) s = .next s
      ∧ exec (.writeUnmapped2D d) s = .next s ∧ exec (.writeUnmapped2E d) s = .next s
      ∧ exec (.writeUnmapped2F d) s = .next s
      ∧ ∀ a : Byte, a = 0x15#8 ∨ a = 0x1F#8 ∨ (0x27#8 ≤ a ∧ a ≤ 0x2F#8) → dispatch a d s = .next s

/-- R191: a write to an address outside the window changes nothing. -/
def Obligations.OutOfWindowWritesDoNothing : Prop :=
  ∀ (s : State) (lo : BitVec 4) (d : Byte), s.Ready →
    exec (.writeOut0 lo d) s = .next s ∧ exec (.writeOut4 lo d) s = .next s ∧ exec (.writeOut5 lo d) s = .next s
      ∧ exec (.writeOut6 lo d) s = .next s ∧ exec (.writeOut7 lo d) s = .next s
      ∧ exec (.writeOut8 lo d) s = .next s ∧ exec (.writeOut9 lo d) s = .next s
      ∧ exec (.writeOutA lo d) s = .next s ∧ exec (.writeOutB lo d) s = .next s
      ∧ exec (.writeOutC lo d) s = .next s ∧ exec (.writeOutD lo d) s = .next s
      ∧ exec (.writeOutE lo d) s = .next s ∧ exec (.writeOutF lo d) s = .next s

/-- R231, R232: a wave-RAM write converts its byte into two samples, high nibble first, whatever the gates are, and changes
nothing else: no message, no commit. -/
def Obligations.WaveWritesConvertOneByte : Prop :=
  ∀ (s : State) (j : BitVec 4) (d : Byte), s.Ready → s.sampleBuf.wf = true →
    ∃ t, exec (.writeWave j d) s = .next t ∧ t = { s with sampleBuf := t.sampleBuf }
      ∧ t.sampleBuf.read (2 * j.toNat) = s.cfg.waveTable[(d.extractLsb' 4 4).toNat]
      ∧ t.sampleBuf.read (2 * j.toNat + 1) = s.cfg.waveTable[(d.extractLsb' 0 4).toNat]
      ∧ ∀ k, k ≠ 2 * j.toNat → k ≠ 2 * j.toNat + 1 → t.sampleBuf.read k = s.sampleBuf.read k

/-! ## The timing engine (42_timing_engine.md) -/

/-- R202, R203: the sweep of channel 0, when it does not overflow, fires once for each time its counter is not above 0. Each
step adds one period and shifts the frequency as R203 computes it, 1 down by shift 1 staying 1 (log entry 30, DEDUCED: R216
says otherwise); the result is committed. -/
def Obligations.SweepStepsTheFrequency : Prop :=
  ∀ (s t : State) (e : BitVec 28) (n : Nat), exec (.advance e) s = .next t →
    s.ch0.voice.on = true → s.ch0.sweep.time ≠ 0#3 →
    Fires (s.ch0.sweep.counter - e.toNat) (s.cfg.clockSpeed / (128 / s.ch0.sweep.time.toNat) : Nat) n →
    (∀ k ≤ n, sweptAfter s k ≤ 0x7FF) →
      t.ch0.freq.toNat = sweptAfter s n
        ∧ t.ch0.sweep = { s.ch0.sweep with counter :=
            s.ch0.sweep.counter - e.toNat + n * (s.cfg.clockSpeed / (128 / s.ch0.sweep.time.toNat) : Nat) }
        ∧ (s.soundEnabled = true → n ≠ 0 → t.sb.freq.get .c0 = BitVec.ofNat 16 (sweptAfter s n))

/-- R204, R211 (a): a sweep step beyond 0x7FF stores the frequency, switches channel 0 off, clears its on-bit, signals
`Deactivate(0)` first and once, commits no overflowed frequency, and stops the channel before its envelope and length
turns. -/
def Obligations.SweepOverflowSwitchesTheChannelOff : Prop :=
  ∀ (s t : State) (e : BitVec 28) (n : Nat), exec (.advance e) s = .next t →
    s.ch0.voice.on = true → s.ch0.sweep.time ≠ 0#3 →
    (∀ k ≤ n, sweptAfter s k ≤ 0x7FF) → 0x7FF < sweptAfter s (n + 1) →
    s.ch0.sweep.counter - e.toNat + n * (s.cfg.clockSpeed / (128 / s.ch0.sweep.time.toNat) : Nat) ≤ 0 →
      t.ch0 = { s.ch0 with
          freq := BitVec.ofNat 12 (sweptAfter s (n + 1))
          voice := { s.ch0.voice with on := false }
          sweep := { s.ch0.sweep with counter := s.ch0.sweep.counter - e.toNat
            + (n + 1) * (s.cfg.clockSpeed / (128 / s.ch0.sweep.time.toNat) : Nat) } }
        ∧ t.ch0.freq.toNat = sweptAfter s (n + 1)
        ∧ (s.soundEnabled = true → maskBit t.sb.onMask .c0 = false
            ∧ t.sb.freq.get .c0 = if n = 0 then s.sb.freq.get .c0 else BitVec.ofNat 16 (sweptAfter s n))
        ∧ ∃ rest, t.events.filter (fun x => !x.isDiag)
            = s.events.filter (fun x => !x.isDiag) ++ .deactivate .c0 :: rest ∧ HostEvent.deactivate .c0 ∉ rest

/-- R203, R215 (log entry 11, where R215's own bound fails): with a sweep period of 0 that is due, `ADVANCE` has no next
state when the sweep subtracts within 11 bits or its step is 0, for the loop of R200 then never ends; the model stops by
name. -/
def Obligations.AnEndlessSweepStops : Prop :=
  ∀ (s : State) (e : BitVec 28), s.Ready → s.ch0.voice.on = true → ¬s.SweepEnds →
    s.ch0.sweep.counter - e.toNat ≤ 0 → s.ch0.freq.toNat ≤ 0x7FF →
    s.ch0.sweep.down = true ∨ s.ch0.freq.toNat >>> s.ch0.sweep.shift.toNat = 0 →
      exec (.advance e) s = .fault .endlessSweep

/-- R205, R206, R211 (b), R218: the envelope of channel 0, 1 or 3 that is on and has a period fires once for each time its
counter is not above 0, moving the volume one step each time, clamped to 0 to 15; the volume is committed when it changed.
For channel 0 the sweep must not have overflowed in the slice. -/
def Obligations.EnvelopeStepsTheVolume : Prop :=
  ∀ (s t : State) (e : BitVec 28) (c : Chan) (v : Envelope) (n : Nat), exec (.advance e) s = .next t →
    (s.voice c).on = true → s.env c = some v → v.period ≠ 0#3 →
    (c = .c0 → s.ch0.freq.toNat ≤ 0x7FF ∧ t.ch0.freq.toNat ≤ 0x7FF) →
    Fires (v.counter - e.toNat) (v.period.toNat * s.cfg.clockSpeed / 64 : Nat) n →
      t.env c = some { v with
          counter := v.counter - e.toNat + n * (v.period.toNat * s.cfg.clockSpeed / 64 : Nat)
          vol := if v.up then BitVec.ofNat 4 (min (v.vol.toNat + n) 15) else BitVec.ofNat 4 (v.vol.toNat - n) }
        ∧ (s.soundEnabled = true →
            t.sb.vol.get c = if t.vol c ≠ s.vol c then t.vol c else s.sb.vol.get c)

/-- R207, R208: the length counter of a channel that is on and length-enabled loses the elapsed cycles; the channel is
switched off exactly when it is then not above 0, and is not reloaded. A channel that is not length-enabled keeps it. For
channel 0 the sweep must not have overflowed in the slice. -/
def Obligations.LengthExpirySwitchesTheChannelOff : Prop :=
  ∀ (s t : State) (e : BitVec 28) (c : Chan), exec (.advance e) s = .next t → (s.voice c).on = true →
    (c = .c0 → s.ch0.freq.toNat ≤ 0x7FF ∧ t.ch0.freq.toNat ≤ 0x7FF) →
      t.voice c =
        if (s.voice c).lenEnable = true then
          { s.voice c with
            lenCounter := (s.voice c).lenCounter - e.toNat
            on := decide (0 < (s.voice c).lenCounter - e.toNat) }
        else s.voice c

/-- R204, R208, R210, R211 (c), R305, R36: an `ADVANCE` signals `Deactivate(i)` exactly once for each channel it switches
off, in channel order, and clears exactly those on-bits; a channel that is off before it is left alone. -/
def Obligations.AdvanceSignalsTheDeactivations : Prop :=
  ∀ (s t : State) (e : BitVec 28), exec (.advance e) s = .next t →
    t.events.filter (fun x => !x.isDiag)
        = s.events.filter (fun x => !x.isDiag)
          ++ ([Chan.c0, .c1, .c2, .c3].filter fun c => (s.voice c).on && !(t.voice c).on).map .deactivate
      ∧ (s.soundEnabled = true → ∀ c, maskBit t.sb.onMask c
          = (maskBit s.sb.onMask c && !((s.voice c).on && !(t.voice c).on)))
      ∧ (s.ch0.voice.on = false → t.ch0 = s.ch0) ∧ (s.ch1.voice.on = false → t.ch1 = s.ch1)
      ∧ (s.ch2.voice.on = false → t.ch2 = s.ch2) ∧ (s.ch3.voice.on = false → t.ch3 = s.ch3)

/-- R209: an `ADVANCE` completes, unless its sweep is due with a period of 0 and never overflows (log entry 11). When a
sweep step changed the frequency, an envelope step changed a volume or a channel was switched off, it sends `Update(ALL)`
once; else nothing. -/
def Obligations.AdvanceSendsWhenSomethingChanged : Prop :=
  ∀ (s : State) (e : BitVec 28), s.Ready → s.Silent → s.SweepHalts e →
    ∃ t, exec (.advance e) s = .next t
      ∧ (t.params .c0 ≠ s.params .c0 ∨ t.params .c1 ≠ s.params .c1 ∨ t.params .c2 ≠ s.params .c2
          ∨ t.params .c3 ≠ s.params .c3 → Sends 0x1F#32 s t)
      ∧ (t.params .c0 = s.params .c0 ∧ t.params .c1 = s.params .c1 ∧ t.params .c2 = s.params .c2
          ∧ t.params .c3 = s.params .c3 → SendsNothing s t)

/-- R20, R200: `ADVANCE` changes only the on flags, the counters, the volumes of channels 0, 1 and 3, the frequency of
channel 0 and the next-event minimum, and no byte of memory outside the on-mask, that frequency, those volumes and the
fields a message writes. -/
def Obligations.AdvanceFrame : Prop :=
  ∀ (s t : State) (e : BitVec 28), exec (.advance e) s = .next t →
    t.ch0 = { s.ch0 with
        voice := { s.ch0.voice with on := t.ch0.voice.on, lenCounter := t.ch0.voice.lenCounter }
        env := { s.ch0.env with vol := t.ch0.env.vol, counter := t.ch0.env.counter }
        sweep := { s.ch0.sweep with counter := t.ch0.sweep.counter }, freq := t.ch0.freq }
      ∧ t.ch1 = { s.ch1 with
          voice := { s.ch1.voice with on := t.ch1.voice.on, lenCounter := t.ch1.voice.lenCounter }
          env := { s.ch1.env with vol := t.ch1.env.vol, counter := t.ch1.env.counter } }
      ∧ t.ch2 = { s.ch2 with
          voice := { s.ch2.voice with on := t.ch2.voice.on, lenCounter := t.ch2.voice.lenCounter } }
      ∧ t.ch3 = { s.ch3 with
          voice := { s.ch3.voice with on := t.ch3.voice.on, lenCounter := t.ch3.voice.lenCounter }
          env := { s.ch3.env with vol := t.ch3.env.vol, counter := t.ch3.env.counter } }
      ∧ ModesKept s t ∧ BytesKept s t
      ∧ MemoryKeptOutside [.onMask, .freq .c0, .vol .c0, .vol .c1, .vol .c3] s t

/-- R201, R212, R217: after an `ADVANCE` the next-event minimum is at least 1 and at most NO_EVENT, and no running timer is
sooner; with every channel off before it, it is NO_EVENT. It is exactly the minimum of NO_EVENT and the reports made, where
the frequency of a channel 0 that is on has 11 bits (the invariant of R22). -/
def Obligations.AdvanceReportsTheNextEvent : Prop :=
  ∀ (s t : State) (e : BitVec 28), exec (.advance e) s = .next t →
    1 ≤ t.nextEvent ∧ t.nextEvent ≤ noEvent
      ∧ (∀ c, ∀ n ∈ runningCounters c t, t.nextEvent ≤ n)
      ∧ ((∀ c, (s.voice c).on = false) → t.nextEvent = noEvent)
      ∧ ((s.ch0.voice.on = true → s.ch0.freq.toNat ≤ 0x7FF) →
          t.nextEvent = (advanceReports s t).foldl min noEvent)

/-- R213: below the next-event minimum, which is at most every running counter, or below every running counter itself,
`ADVANCE` only subtracts the elapsed cycles from the running counters and rebuilds the minimum as that of the running counters
it leaves: no parameter, no on flag, no memory and no queue changes, and nothing is put out. -/
def Obligations.AdvanceBelowTheNextEventIsQuiet : Prop :=
  ∀ (s : State) (e : BitVec 28), s.Ready →
    ((NextEventInv s ∧ (e.toNat : Int) < s.nextEvent) ∨ ∀ c, ∀ n ∈ runningCounters c s, (e.toNat : Int) < n) →
    ∃ t, exec (.advance e) s = .next t
      ∧ t.nextEvent = (runningCounters .c0 t ++ runningCounters .c1 t ++ runningCounters .c2 t
          ++ runningCounters .c3 t).foldl min noEvent
      ∧ t = { s with
          ch0 := { s.ch0 with
            voice := elapsedVoice e s.ch0.voice, env := elapsedEnvelope e s.ch0.voice.on s.ch0.env
            sweep := elapsedSweep e s.ch0.voice.on s.ch0.sweep }
          ch1 := { s.ch1 with
            voice := elapsedVoice e s.ch1.voice, env := elapsedEnvelope e s.ch1.voice.on s.ch1.env }
          ch2 := { s.ch2 with voice := elapsedVoice e s.ch2.voice }
          ch3 := { s.ch3 with
            voice := elapsedVoice e s.ch3.voice, env := elapsedEnvelope e s.ch3.voice.on s.ch3.env }
          nextEvent := t.nextEvent }

/-- R219: for a channel that stays on through both calls, `ADVANCE a` and then `ADVANCE b` give the same channel record as
`ADVANCE a + b`. -/
def Obligations.SplittingASliceKeepsTheRecord : Prop :=
  ∀ (s t u v : State) (a b : BitVec 28), a.toNat + b.toNat < 2 ^ 28 →
    exec (.advance a) s = .next t → exec (.advance b) t = .next u → exec (.advance (a + b)) s = .next v →
      (u.ch0.voice.on = true → u.ch0 = v.ch0) ∧ (u.ch1.voice.on = true → u.ch1 = v.ch1)
        ∧ (u.ch2.voice.on = true → u.ch2 = v.ch2) ∧ (u.ch3.voice.on = true → u.ch3 = v.ch3)

/-! ## Lifecycle and frame operations (45_lifecycle.md) -/

/-- R280, R331, R281: `INIT` leaves every state element at the value R331 gives it, converts the wave RAM, and touches
neither the configuration nor what the host and the environment hold. It is admitted first, and later while P does not hold
and no consumer move is half done; else it is a fault of the environment, by a name that is the model's choice (DESIGN CHOICE,
log entry 23; that an operation issued while P holds is one is DEDUCED, log entry 21). The events already put out stay (log
entry 16). -/
def Obligations.InitGivesTheResetValues : Prop :=
  (∀ s : State, configAdmitted s.cfg = true → (s.started = true → s.held = none ∧ s.consumerActive = false) →
    ∃ t, exec .init s = .next t
      ∧ t.ch0 = ⟨⟨false, false, 0, 0⟩, ⟨0, 0, false, 0, 0⟩, ⟨0, false, 0, 0⟩, 0, 0, 0⟩
      ∧ t.ch1 = ⟨⟨false, false, 0, 0⟩, ⟨0, 0, false, 0, 0⟩, 0, 0, 0⟩
      ∧ t.ch2 = ⟨⟨false, false, 0, 0⟩, 0, 0, 0, false⟩
      ∧ t.ch3 = ⟨⟨false, false, 0, 0⟩, ⟨0, 0, false, 0, 0⟩, 0, 0⟩
      ∧ t.masterEnable = false ∧ t.soundEnabled = true ∧ t.muted = false ∧ t.target = .real
      ∧ t.accurateSync = false ∧ t.masterVolume = 0 ∧ t.routing = 0 ∧ t.nextEvent = 0x7FFFFFFF
      ∧ t.producerFlip = false ∧ ConvertedFrom s.cfg s.io t ∧ t.diagCount = ⟨0, 0, 0, 0⟩
      ∧ (∀ f : Field, t.rsb.get f
          = match f with | .syncCycle => 0xFFFFFFFF#32 | .sampleBufPtr => s.cfg.sampleBufAddr | _ => 0#32)
      ∧ t.dsb = t.rsb ∧ t.queue = [] ∧ t.held = none ∧ t.started = true
      ∧ t.consumer = ⟨none, false, .idle⟩ ∧ t.cfg = s.cfg ∧ t.io = s.io ∧ t.stream = s.stream
      ∧ t.turns = s.turns ∧ t.draws = s.draws ∧ t.drawCount = s.drawCount ∧ t.events = s.events)
    ∧ ∀ s : State, configAdmitted s.cfg = true → s.started = true →
      (s.held ≠ none → exec .init s = .fault .reentrantOperation)
      ∧ (s.held = none →
          (s.consumer.dequeued ≠ none ∨ s.consumer.acknowledging = true ∨ s.consumer.flipStage ≠ .idle) →
          exec .init s = .fault .initWhileConsumerActive)

/-- R289, R259: `MUTE` puts the Mute word straight into the queue, in either delivery mode, and then redirects P to the dummy
block; nothing else changes. While P is disabled it sends nothing. A second `MUTE` does nothing. -/
def Obligations.MuteRedirectsToTheDummyBlock : Prop :=
  ∀ s : State, s.Ready → s.Silent →
    (s.muted = true → exec .mute s = .next s)
    ∧ (s.muted = false → ∃ t, exec .mute s = .next t ∧ t.muted = true ∧ t.target = .dummy
      ∧ (s.soundEnabled = true → AdmittedOrDropped 0x3F#32 s t)
      ∧ (s.soundEnabled = false → SendsNothing s t)
      ∧ ChannelsKept s t ∧ BytesKept s t ∧ ModesKept { s with muted := true, target := .dummy } t
      ∧ t.nextEvent = s.nextEvent ∧ NoOutput s t ∧ MemoryKeptOutside [] s t)

/-- R290, R291, R292: `UNMUTE` re-attaches the real block, refreshes, and then puts the Unmute word into the queue unless
P is disabled; an `UNMUTE` while not muted does nothing. `SETENABLED 1` from 0 refreshes with the gate open; any other
`SETENABLED` only stores the flag. In every mode an `UNMUTE` is the passes of the resync with the Unmute word after them.
Where no `Send` holds P (best effort, or a gate closed) both complete, with the messages of R183 in order, and Unmute
last. -/
def Obligations.UnmuteAndEnableRefresh : Prop :=
  ∀ s : State, s.Ready →
    (s.muted = false → exec .unmute s = .next s)
    ∧ (∀ u : State, s.muted = true → u = { s with target := .real, muted := false } →
        u.soundEnabled = false ∨ u.accurateSync = false →
        exec .unmute s = andThen (exec .refresh u)
            (fun v => if v.soundEnabled = true then enqueue 0x4F#32 v else .next v)
          ∧ (s.Silent → ∃ t, exec .unmute s = .next t ∧ t.target = .real ∧ t.muted = false
              ∧ SendsAll (resyncMessages ((s.ioByte 0x26#8).getLsbD 7) s ++ [0x4F#32]) u t))
    ∧ (∀ u : State, s.muted = true → u = { s with target := .real, muted := false } →
        exec .unmute s = runTasks (resyncWork s ++ [.unmuteWord])
          (commit .onMask 0 (commit .hyperSync (flagWord s.accurateSync) (commit .producerFlip (flagWord s.producerFlip)
            { u with masterEnable := (s.ioByte 0x26#8).getLsbD 7 }))))
    ∧ (∀ u : State, s.soundEnabled = false → u = { s with soundEnabled := true } →
        exec (.setenabled true) s = exec .refresh u
          ∧ (s.Silent → u.NeverHolds → ∃ t, exec (.setenabled true) s = .next t ∧ t.soundEnabled = true
              ∧ SendsAll (resyncMessages ((s.ioByte 0x26#8).getLsbD 7) s) u t)
          ∧ (s.Silent → ∃ t, exec (.setenabled true) s = .next t ∧ t.soundEnabled = true))
    ∧ (s.soundEnabled = true → exec (.setenabled true) s = .next s)
    ∧ exec (.setenabled false) s = .next { s with soundEnabled := false }

/-- R293, R295, R288: `VBLANK` toggles P's frame flip and `SETSYNC` sets the delivery mode; each is committed to the block P
writes, through the gate, and nothing else changes. -/
def Obligations.FrameFlipAndSyncMode : Prop :=
  ∀ (s : State) (b : Bool), s.Ready →
    exec .vblank s = .next
      (if s.soundEnabled = false then { s with producerFlip := !s.producerFlip }
       else match s.target with
        | .real => { s with producerFlip := !s.producerFlip, rsb := { s.rsb with producerFlip := !s.producerFlip } }
        | .dummy => { s with producerFlip := !s.producerFlip, dsb := { s.dsb with producerFlip := !s.producerFlip } })
    ∧ exec (.setsync b) s = .next
      (if s.soundEnabled = false then { s with accurateSync := b }
       else match s.target with
        | .real => { s with accurateSync := b, rsb := { s.rsb with hyperSync := b } }
        | .dummy => { s with accurateSync := b, dsb := { s.dsb with hyperSync := b } })

/-- R297, R46: `GETNEXT` gives the host the next-event minimum and changes nothing else, so two in a row give the same
value. -/
def Obligations.GetNextReturnsTheMinimum : Prop :=
  ∀ s : State, s.Ready →
    exec .getnext s = .next { s with events := s.events ++ [.nextEvent s.nextEvent] }
      ∧ andThen (exec .getnext s) (exec .getnext)
        = .next { s with events := s.events ++ [.nextEvent s.nextEvent, .nextEvent s.nextEvent] }

/-! ## Messaging and synchronisation (44_sync_messaging.md) -/

/-- R248, R301, R307: the admission of a word while C makes no move. At the threshold it is dropped, then at the capacity,
each with its diagnostic and nothing else; else it goes to the tail of the queue with the slot and the count written. -/
def Obligations.EnqueueAdmission : Prop :=
  ∀ (s : State) (w : Word), s.Silent →
    (s.cfg.dropThreshold ≤ (s.rsb.sentCount - s.rsb.recvCount).toNat →
      enqueue w s = .next { s with
        diagCount := { s.diagCount with thresholdDrop := s.diagCount.thresholdDrop + 1 }
        events := s.events ++ [.diag .thresholdDrop] })
    ∧ ((s.rsb.sentCount - s.rsb.recvCount).toNat < s.cfg.dropThreshold → s.queue.length = s.cfg.queueCapacity →
      enqueue w s = .next { s with
        diagCount := { s.diagCount with queueFull := s.diagCount.queueFull + 1 }
        events := s.events ++ [.diag .queueFull] })
    ∧ ((s.rsb.sentCount - s.rsb.recvCount).toNat < s.cfg.dropThreshold → s.queue.length ≠ s.cfg.queueCapacity →
      enqueue w s = .next { s with
        rsb := { s.rsb with message := w, sentCount := s.rsb.sentCount + 1 }
        queue := s.queue ++ [w] })

/-- R249: no operation holds P while delivery is best-effort, whatever the consumer does; the best-effort `Send` is
`Enqueue` alone. -/
def Obligations.BestEffortNeverHoldsP : Prop :=
  (∀ (k : MsgKind) (c : MsgChan) (s : State), s.soundEnabled = true → s.muted = false → s.accurateSync = false →
      send k c s = enqueue (messageWord k c) s)
    ∧ (∀ (k : MsgKind) (c : MsgChan) (s t : State), s.accurateSync = false → send k c s = .next t → t.held = s.held)
    ∧ ∀ (i : Instr) (s t : State), i.interface = .operation → s.accurateSync = false → exec i s = .next t →
        t.held = none

/-- R245, R250 to R253, R258: the cycle-accurate `Send` is `SyncSend`; this is what it does while C makes no move. With C
ahead, mid-flip or out of phase, or an unrepresentable target, it delivers at once with its diagnostic and leaves the
handshake cell; else it writes the target, with every commit before it already made, and P holds, unless the transfer flag
is already up, which aborts the wait. R45, R257: it consumes one host draw, whatever follows (how a draw is supplied when
none is listed is log entry 5, DESIGN CHOICE). R301: each diagnostic is put out to the host, that of a drop last. -/
def Obligations.SyncSendDecides : Prop :=
  ∀ (s : State) (k : MsgKind) (ch : MsgChan) (c : Word), s.Silent → s.Audible → s.accurateSync = true →
    c = (if s.draw.doubleSpeed then s.draw.cyclesSinceFrame >>> 1 else s.draw.cyclesSinceFrame) →
    send k ch s = syncSend (messageWord k ch) s
    ∧ (∃ t, send k ch s = .next t ∧ t.draws = s.draws.tail
        ∧ t.drawCount = if s.draws = [] then s.drawCount + 1 else s.drawCount)
    ∧ ((c ≤ s.rsb.consumerCycle ∨ s.rsb.flipInProgress = true ∨ s.rsb.producerFlip ≠ s.rsb.consumerFlip
        ∨ c = 0xFFFFFFFF#32) →
      ∃ t, send k ch s = .next t ∧ t.held = s.held ∧ t.rsb.syncCycle = s.rsb.syncCycle
        ∧ AdmittedOrDropped (messageWord k ch)
            { s with diagCount := { s.diagCount with syncFallback := s.diagCount.syncFallback + 1 } } t
        ∧ t.events = s.events ++ .diag .syncFallback :: dropEvents s)
    ∧ (¬(c ≤ s.rsb.consumerCycle ∨ s.rsb.flipInProgress = true ∨ s.rsb.producerFlip ≠ s.rsb.consumerFlip
        ∨ c = 0xFFFFFFFF#32) →
      (s.rsb.transferInProgress = false →
        ∃ t, send k ch s = .next t ∧ t.held = some ⟨messageWord k ch, []⟩ ∧ t.rsb = { s.rsb with syncCycle := c }
          ∧ t.queue = s.queue ∧ t.diagCount = s.diagCount ∧ t.events = s.events)
      ∧ (s.rsb.transferInProgress = true →
        ∃ t, send k ch s = .next t ∧ t.held = none ∧ t.rsb.syncCycle = 0xFFFFFFFF#32
          ∧ AdmittedOrDropped (messageWord k ch)
              { s with
                diagCount := { s.diagCount with syncAbort := s.diagCount.syncAbort + 1 }, held := none } t
          ∧ t.events = s.events ++ .diag .syncAbort :: dropEvents s))

/-- R253 to R255, R307: while P holds (after an `INIT`: log entry 6, DESIGN CHOICE), a step lets C take its turn and
looks. With neither the acknowledgment nor the transfer flag only the turn has happened. The acknowledgment, which wins
over the flag, queues the word; the flag alone withdraws the target and queues the word with its diagnostic; then the rest
of the operation goes on. Both hold whatever C does at the points that follow; while it makes no move there, the end
touches no record, no global, no commit and no draw. R257, R346: an operation's tasks run in order, and when one leaves P
holding, the tasks after it wait for the end of that hold. R180 to R182, R290: a task is the `WRITE` of the stored byte at
its address, without the trigger bit in the bulk pass; the re-trigger, with it, of a channel that was on while the master
bit is set; or the Unmute word. -/
def Obligations.TheWaitHoldsAndEnds : Prop :=
  (∀ (s u : State) (h : Held), configAdmitted s.cfg = true → s.started = true → s.held = some h →
    consumerTurn s = .next u →
    (u.rsb.syncCycle ≠ 0xFFFFFFFF#32 → u.rsb.transferInProgress = false → step s = .next u)
    ∧ (u.rsb.syncCycle = 0xFFFFFFFF#32 →
      step s = andThen (enqueue h.word { u with held := none }) (runTasks h.rest)
      ∧ (u.Silent → ∃ v, step s = runTasks h.rest v ∧ AdmittedOrDropped h.word { u with held := none } v
          ∧ recordSide v = recordSide u ∧ v.rsb.syncCycle = 0xFFFFFFFF#32 ∧ v.draws = u.draws
          ∧ v.events = u.events ++ dropEvents u))
    ∧ (u.rsb.syncCycle ≠ 0xFFFFFFFF#32 → u.rsb.transferInProgress = true →
      step s = andThen (consumerTurn { u with held := none }) (fun x =>
        andThen (enqueue h.word { x with
            rsb := { x.rsb with syncCycle := 0xFFFFFFFF#32 }
            diagCount := { x.diagCount with syncAbort := x.diagCount.syncAbort + 1 }
            events := x.events ++ [.diag .syncAbort] }) (runTasks h.rest))
      ∧ (u.Silent → ∃ v, step s = runTasks h.rest v ∧ v.rsb.syncCycle = 0xFFFFFFFF#32 ∧ recordSide v = recordSide u
          ∧ AdmittedOrDropped h.word
              { u with held := none, diagCount := { u.diagCount with syncAbort := u.diagCount.syncAbort + 1 } } v
          ∧ v.draws = u.draws ∧ v.events = u.events ++ .diag .syncAbort :: dropEvents u)))
    ∧ (∀ (k : Task) (ks : List Task) (s u : State), runTask k s = .next u →
      (u.held = none → runTasks (k :: ks) s = runTasks ks u)
        ∧ ∀ h, u.held = some h → runTasks (k :: ks) s = .next { u with held := some ⟨h.word, h.rest ++ ks⟩ })
    ∧ (∀ s : State, runTasks [] s = .next s)
    ∧ ∀ s : State, s.Ready →
      (∀ a d : Byte, 0x10 ≤ a.toNat → a.toNat ≤ 0x3F → a ≠ 0x26#8 →
        d = (if a = 0x14#8 ∨ a = 0x19#8 ∨ a = 0x1E#8 ∨ a = 0x23#8 then s.ioByte a &&& 0x7F#8 else s.ioByte a) →
        runTask (.bulk a) s = runWord (writeWord (a.toNat / 16) (a.toNat % 16) d) s)
      ∧ (∀ (c : Chan) (a : Byte) (prev : Bool),
        a = (match c with | .c0 => 0x14#8 | .c1 => 0x19#8 | .c2 => 0x1E#8 | .c3 => 0x23#8) →
        runTask (.retrigger c prev) s
          = if s.masterEnable = true ∧ prev = true then
              runWord (writeWord (a.toNat / 16) (a.toNat % 16) (s.ioByte a ||| 0x80#8)) s
            else .next s)
      ∧ runTask .unmuteWord s = if s.soundEnabled = true then enqueue 0x4F#32 s else .next s

/-- R262 to R267: the consumer's moves, each atomic step by itself and in its order, under their conditions, and its
reads, which change nothing. The model's choices among them: a move whose condition fails changes nothing (DESIGN CHOICE,
log entry 10); a move of one kind is not started again while one of that kind is half done (DESIGN CHOICE, log entry 14);
a write of C to a field of its own is the step that writes that value there, and a read of the dummy block, which R267
says C never makes, is a fault (DESIGN CHOICE, log entry 19); a read of the Sample Buffer takes any number of its bytes at
once (DESIGN CHOICE, log entry 29). -/
def Obligations.ConsumerMovesFollowTheirRules : Prop :=
  (∀ s : State,
    (∀ w rest, s.consumer.dequeued = none → s.queue = w :: rest →
      consumerMove .dequeue s
        = .next { s with queue := rest, consumer := { s.consumer with dequeued := some w } })
    ∧ (∀ w, s.consumer.dequeued = some w → IsForm w →
      consumerMove .finishDequeue s
        = .next { s with
            rsb := { s.rsb with recvCount := s.rsb.recvCount + 1 }
            consumer := { s.consumer with dequeued := none } })
    ∧ (s.consumer.acknowledging = false → s.rsb.syncCycle ≠ 0xFFFFFFFF#32 →
      consumerMove .acknowledge s
        = .next { s with
            rsb := { s.rsb with consumerCycle := s.rsb.syncCycle }
            consumer := { s.consumer with acknowledging := true } })
    ∧ (s.consumer.acknowledging = true →
      consumerMove .finishAcknowledge s
        = .next { s with
            rsb := { s.rsb with syncCycle := 0xFFFFFFFF#32 }
            consumer := { s.consumer with acknowledging := false } })
    ∧ (s.consumer.acknowledging = false → s.rsb.syncCycle ≠ 0xFFFFFFFF#32 →
      andThen (consumerMove .acknowledge s) (consumerMove .finishAcknowledge)
        = .next { s with rsb := { s.rsb with consumerCycle := s.rsb.syncCycle, syncCycle := 0xFFFFFFFF#32 } })
    ∧ (∀ x, consumerMove (.position x) s = .next { s with rsb := { s.rsb with consumerCycle := x } })
    ∧ (s.rsb.flipInProgress = false →
      consumerMove .flipBegin s = .next { s with rsb := { s.rsb with flipInProgress := true } })
    ∧ (s.rsb.flipInProgress = true → s.consumer.flipStage = .idle →
      consumerMove .flipEnd s
        = .next { s with
            rsb := { s.rsb with consumerFlip := !s.rsb.consumerFlip }
            consumer := { s.consumer with flipStage := .clearCycle } })
    ∧ (s.consumer.flipStage = .clearCycle →
      consumerMove .continueFlip s
        = .next { s with
            rsb := { s.rsb with consumerCycle := 0 }
            consumer := { s.consumer with flipStage := .clearProgress } })
    ∧ (s.consumer.flipStage = .clearProgress →
      consumerMove .continueFlip s
        = .next { s with
            rsb := { s.rsb with flipInProgress := false }
            consumer := { s.consumer with flipStage := .idle } })
    ∧ (s.rsb.flipInProgress = true → s.consumer.flipStage = .idle →
      andThen (andThen (consumerMove .flipEnd s) (consumerMove .continueFlip)) (consumerMove .continueFlip)
        = .next { s with rsb := { s.rsb with
            consumerFlip := !s.rsb.consumerFlip, consumerCycle := 0, flipInProgress := false } })
    ∧ (∀ b, consumerMove (.transfer b) s = .next { s with rsb := { s.rsb with transferInProgress := b } })
    ∧ (s.consumer.dequeued ≠ none ∨ s.queue = [] → consumerMove .dequeue s = .next s)
    ∧ (s.consumer.dequeued = none → consumerMove .finishDequeue s = .next s)
    ∧ (s.consumer.acknowledging = true ∨ s.rsb.syncCycle = 0xFFFFFFFF#32 → consumerMove .acknowledge s = .next s)
    ∧ (s.consumer.acknowledging = false → consumerMove .finishAcknowledge s = .next s)
    ∧ (s.rsb.flipInProgress = true → consumerMove .flipBegin s = .next s)
    ∧ (s.rsb.flipInProgress = false ∨ s.consumer.flipStage ≠ .idle → consumerMove .flipEnd s = .next s)
    ∧ (s.consumer.flipStage = .idle → consumerMove .continueFlip s = .next s))
    ∧ ∀ s : State, configAdmitted s.cfg = true →
      (∀ f : Field, consumerMove (.read (s.cfg.rsbAddr + BitVec.ofNat 32 f.offset) f.size) s = .next s)
      ∧ (∀ k n : Nat, k < 32 → k + n ≤ 32 →
          consumerMove (.read (s.cfg.sampleBufAddr + BitVec.ofNat 32 k) n) s = .next s)
      ∧ (∀ k n : Nat, k < 52 →
          consumerMove (.read (s.cfg.dsbAddr + BitVec.ofNat 32 k) n) s = .fault .dummyBlockRead)
      ∧ consumerMove (.write (s.cfg.rsbAddr + 0x20#32) 4 (s.rsb.recvCount + 1)) s = consumerMove .finishDequeue s
      ∧ consumerMove (.write (s.cfg.rsbAddr + 0x24#32) 4 0xFFFFFFFF#32) s = consumerMove .finishAcknowledge s
      ∧ (∀ x : Word, consumerMove (.write (s.cfg.rsbAddr + 0x28#32) 4 x) s
          = if s.consumer.flipStage = .clearCycle ∧ x = 0#32 then consumerMove .continueFlip s
            else if s.consumer.acknowledging = false ∧ s.rsb.syncCycle ≠ 0xFFFFFFFF#32 ∧ x = s.rsb.syncCycle then
              consumerMove .acknowledge s
            else consumerMove (.position x) s)
      ∧ consumerMove (.write (s.cfg.rsbAddr + 0x2D#32) 1 (if s.rsb.consumerFlip = true then 0#32 else 1#32)) s
          = consumerMove .flipEnd s
      ∧ consumerMove (.write (s.cfg.rsbAddr + 0x2E#32) 1 1#32) s = consumerMove .flipBegin s
      ∧ (s.consumer.flipStage = .clearProgress →
          consumerMove (.write (s.cfg.rsbAddr + 0x2E#32) 1 0#32) s = consumerMove .continueFlip s)
      ∧ consumerMove (.write (s.cfg.rsbAddr + 0x2F#32) 1 1#32) s = consumerMove (.transfer true) s
      ∧ consumerMove (.write (s.cfg.rsbAddr + 0x2F#32) 1 0#32) s = consumerMove (.transfer false) s

/-- R50, R35, R309 (c): every field has its one writer. An opportunity of C changes no byte of memory outside C's fields
and the handshake cell, and no record, global, draw or host state: nothing of P's side and H's; an operation of P other
than `INIT`, while C makes no move, changes no byte of C's own fields; and a write by C to a field of P, to the handshake
cell of a value other than SENTINEL, to the dummy block or to the Sample Buffer is a fault. That (c) is answered before
(e) there, a partial or misaligned write to these two being the fault wrongWriter too, is the model's choice (DESIGN
CHOICE, log entry 19). -/
def Obligations.EveryFieldHasItsOneWriter : Prop :=
  (∀ (s t : State) (a : Nat), consumerTurn s = .next t → ¬inConsumerField s a →
      ¬inField s.cfg.rsbAddr .syncCycle a → t.memByte a = s.memByte a ∧ ChannelsKept s t ∧ ModesKept s t ∧ BytesKept s t
        ∧ t.held = s.held ∧ t.diagCount = s.diagCount ∧ t.events = s.events ∧ t.nextEvent = s.nextEvent
        ∧ t.draws = s.draws ∧ t.drawCount = s.drawCount ∧ producerSide t = producerSide s)
    ∧ (∀ (i : Instr) (s t : State), i.interface = .operation → i ≠ .init → s.Silent → exec i s = .next t →
      t.rsb.recvCount = s.rsb.recvCount ∧ t.rsb.consumerCycle = s.rsb.consumerCycle
        ∧ t.rsb.consumerFlip = s.rsb.consumerFlip ∧ t.rsb.flipInProgress = s.rsb.flipInProgress
        ∧ t.rsb.transferInProgress = s.rsb.transferInProgress ∧ t.consumer = s.consumer)
    ∧ ∀ (s : State) (f : Field) (k : Nat) (v : Word), configAdmitted s.cfg = true →
      (f.owner = .producer →
        consumerMove (.write (s.cfg.rsbAddr + BitVec.ofNat 32 f.offset) f.size v) s = .fault .wrongWriter)
      ∧ (v ≠ 0xFFFFFFFF#32 → consumerMove (.write (s.cfg.rsbAddr + 0x24#32) 4 v) s = .fault .wrongWriter)
      ∧ (k < 52 → ∀ n, consumerMove (.write (s.cfg.dsbAddr + BitVec.ofNat 32 k) n v) s = .fault .wrongWriter)
      ∧ (k < 32 → ∀ n, consumerMove (.write (s.cfg.sampleBufAddr + BitVec.ofNat 32 k) n v) s = .fault .wrongWriter)

/-- R61, R64, R65, R36: the layout of both blocks, little-endian, and of the Sample Buffer, at their addresses. -/
def Obligations.BlocksAreLaidOutAsR64 : Prop :=
  (allFields.map fun f => (f, f.offset, f.size))
      = [(.onMask, 0x00, 1), (.masterVolume, 0x01, 1), (.routing, 0x02, 1), (.hyperSync, 0x03, 1),
         (.vol .c0, 0x04, 1), (.vol .c1, 0x05, 1), (.vol .c2, 0x06, 1), (.vol .c3, 0x07, 1),
         (.freq .c0, 0x08, 2), (.freq .c1, 0x0A, 2), (.freq .c2, 0x0C, 2), (.freq .c3, 0x0E, 2),
         (.pan .c0, 0x10, 1), (.pan .c1, 0x11, 1), (.pan .c2, 0x12, 1), (.pan .c3, 0x13, 1),
         (.duty .c0, 0x14, 1), (.duty .c1, 0x15, 1), (.duty .c2, 0x16, 1), (.duty .c3, 0x17, 1),
         (.message, 0x18, 4), (.sentCount, 0x1C, 4), (.recvCount, 0x20, 4), (.syncCycle, 0x24, 4),
         (.consumerCycle, 0x28, 4), (.producerFlip, 0x2C, 1), (.consumerFlip, 0x2D, 1), (.flipInProgress, 0x2E, 1),
         (.transferInProgress, 0x2F, 1), (.sampleBufPtr, 0x30, 4)]
    ∧ (∀ (s : State) (f : Field) (k : Nat), configAdmitted s.cfg = true → k < f.size →
        s.memByte (s.cfg.rsbAddr.toNat + f.offset + k) = some (BitVec.ofNat 8 ((s.rsb.get f).toNat / 2 ^ (8 * k)))
          ∧ s.memByte (s.cfg.dsbAddr.toNat + f.offset + k) = some (BitVec.ofNat 8 ((s.dsb.get f).toNat / 2 ^ (8 * k))))
    ∧ ∀ (s : State) (k : Nat), configAdmitted s.cfg = true → k < 32 →
        s.memByte (s.cfg.sampleBufAddr.toNat + k) = some (s.sampleBuf.read k)

/-! ## Rules over all instructions -/

/-- R32, R33, R162, R163, R246, R288: while P is disabled, no operation but `INIT` and `SETENABLED 1` changes a shared block,
the queue or a diagnostic count; while P is muted, none but `INIT` and `UNMUTE` changes the real block, the queue or a
diagnostic count. -/
def Obligations.ClosedGatesLeaveTheSharedState : Prop :=
  ∀ (i : Instr) (s t : State), i.interface = .operation → i ≠ .init → exec i s = .next t →
    (s.soundEnabled = false → i ≠ .setenabled true →
      t.rsb = s.rsb ∧ t.dsb = s.dsb ∧ t.queue = s.queue ∧ t.diagCount = s.diagCount ∧ t.held = none)
    ∧ (s.muted = true → s.target = .dummy → i ≠ .unmute →
      t.rsb = s.rsb ∧ t.queue = s.queue ∧ t.diagCount = s.diagCount ∧ t.held = none)

/-- R21, R164, R185 (b): over one operation, a channel goes on only by its own admitted trigger, and goes off only by an
`ADVANCE` (a sweep overflow or a length expiry), by a wave DAC-off write, by a resync that replays one, or by `INIT`. -/
def Obligations.OnFlagsChangeOnlyByTheseRules : Prop :=
  ∀ (i : Instr) (s t : State) (c : Chan), i.interface = .operation → exec i s = .next t →
    ((s.voice c).on = false → (t.voice c).on = true → channelRegister i = some c ∧ admitsTrigger i s = true)
    ∧ ((s.voice c).on = true → (t.voice c).on = false →
      (∃ e, i = .advance e) ∨ i = .init
        ∨ (c = .c2 ∧ ((∃ d : Byte, i = .writeDacen3 d ∧ d.getLsbD 7 = false)
            ∨ ((s.ioByte 0x1A#8).getLsbD 7 = false
                ∧ (i = .refresh ∨ i = .unmute ∨ i = .setenabled true ∨ ∃ d, i = .writeMasteren d)))))
end

