-- ==== Sys2Proof/Laws/Outcome.lean ====
section
/-! SUPPORT. Peeling an operation apart: `andThen` on each outcome, and what a next state says of its two parts. -/

namespace Sys2Proof.Machine

@[simp] theorem andThen_next (s : State) (k : State → Result) : andThen (.next s) k = k s := rfl
@[simp] theorem andThen_fault (f : Fault) (k : State → Result) : andThen (.fault f) k = .fault f := rfl
@[simp] theorem andThen_refused (x : Refusal) (k : State → Result) :
    andThen (.refused x) k = .refused x := rfl

/-- A sequence answers a next state exactly when both parts do. -/
theorem andThen_eq_next {r : Result} {k : State → Result} {t : State} :
    andThen r k = .next t ↔ ∃ s, r = .next s ∧ k s = .next t := by
  cases r <;> simp [andThen]

/-- A property that both parts carry over is carried over by the sequence. -/
theorem andThen_next_rel {r : Result} {k : State → Result} {t : State} {P : State → Prop}
    (h : andThen r k = .next t) (hr : ∀ s, r = .next s → P s)
    (hk : ∀ s, P s → k s = .next t → P t) : P t := by
  obtain ⟨s, h1, h2⟩ := andThen_eq_next.mp h
  exact hk s (hr s h1) h2

/-- What the guard of an operation lets through (R309). -/
theorem issue_eq_next {s t : State} {k : State → Result} :
    issue s k = .next t ↔
      configAdmitted s.cfg = true ∧ s.started = true ∧ s.held = none ∧ k s = .next t := by
  unfold issue
  cases h1 : configAdmitted s.cfg <;> cases h2 : s.started <;> cases h3 : s.held <;> simp

/-- The guard lets an operation run when the machine is ready. -/
theorem issue_ready {s : State} (k : State → Result) (h1 : configAdmitted s.cfg = true)
    (h2 : s.started = true) (h3 : s.held = none) : issue s k = k s := by
  simp [issue, h1, h2, h3]

end Sys2Proof.Machine
end

