-- ==== Sys2Proof/Laws/State.lean ====
section
/-! SUPPORT. What each named update of the state changes and what it leaves: one lemma per field and update, so that no
later proof unfolds a record update. -/

namespace Sys2Proof.Machine

variable (s : State)

/-! ### setVoice -/

@[simp] theorem setVoice_cfg (i : Chan) (v : Voice) : (setVoice i v s).cfg = s.cfg := by cases i <;> rfl
@[simp] theorem setVoice_masterEnable (i : Chan) (v : Voice) : (setVoice i v s).masterEnable = s.masterEnable := by cases i <;> rfl
@[simp] theorem setVoice_soundEnabled (i : Chan) (v : Voice) : (setVoice i v s).soundEnabled = s.soundEnabled := by cases i <;> rfl
@[simp] theorem setVoice_muted (i : Chan) (v : Voice) : (setVoice i v s).muted = s.muted := by cases i <;> rfl
@[simp] theorem setVoice_target (i : Chan) (v : Voice) : (setVoice i v s).target = s.target := by cases i <;> rfl
@[simp] theorem setVoice_accurateSync (i : Chan) (v : Voice) : (setVoice i v s).accurateSync = s.accurateSync := by cases i <;> rfl
@[simp] theorem setVoice_masterVolume (i : Chan) (v : Voice) : (setVoice i v s).masterVolume = s.masterVolume := by cases i <;> rfl
@[simp] theorem setVoice_routing (i : Chan) (v : Voice) : (setVoice i v s).routing = s.routing := by cases i <;> rfl
@[simp] theorem setVoice_nextEvent (i : Chan) (v : Voice) : (setVoice i v s).nextEvent = s.nextEvent := by cases i <;> rfl
@[simp] theorem setVoice_producerFlip (i : Chan) (v : Voice) : (setVoice i v s).producerFlip = s.producerFlip := by cases i <;> rfl
@[simp] theorem setVoice_sampleBuf (i : Chan) (v : Voice) : (setVoice i v s).sampleBuf = s.sampleBuf := by cases i <;> rfl
@[simp] theorem setVoice_diagCount (i : Chan) (v : Voice) : (setVoice i v s).diagCount = s.diagCount := by cases i <;> rfl
@[simp] theorem setVoice_rsb (i : Chan) (v : Voice) : (setVoice i v s).rsb = s.rsb := by cases i <;> rfl
@[simp] theorem setVoice_dsb (i : Chan) (v : Voice) : (setVoice i v s).dsb = s.dsb := by cases i <;> rfl
@[simp] theorem setVoice_queue (i : Chan) (v : Voice) : (setVoice i v s).queue = s.queue := by cases i <;> rfl
@[simp] theorem setVoice_started (i : Chan) (v : Voice) : (setVoice i v s).started = s.started := by cases i <;> rfl
@[simp] theorem setVoice_held (i : Chan) (v : Voice) : (setVoice i v s).held = s.held := by cases i <;> rfl
@[simp] theorem setVoice_consumer (i : Chan) (v : Voice) : (setVoice i v s).consumer = s.consumer := by cases i <;> rfl
@[simp] theorem setVoice_io (i : Chan) (v : Voice) : (setVoice i v s).io = s.io := by cases i <;> rfl
@[simp] theorem setVoice_stream (i : Chan) (v : Voice) : (setVoice i v s).stream = s.stream := by cases i <;> rfl
@[simp] theorem setVoice_turns (i : Chan) (v : Voice) : (setVoice i v s).turns = s.turns := by cases i <;> rfl
@[simp] theorem setVoice_draws (i : Chan) (v : Voice) : (setVoice i v s).draws = s.draws := by cases i <;> rfl
@[simp] theorem setVoice_drawCount (i : Chan) (v : Voice) : (setVoice i v s).drawCount = s.drawCount := by cases i <;> rfl
@[simp] theorem setVoice_events (i : Chan) (v : Voice) : (setVoice i v s).events = s.events := by cases i <;> rfl

/-! ### setEnv -/

@[simp] theorem setEnv_cfg (i : Chan) (e : Envelope) : (setEnv i e s).cfg = s.cfg := by cases i <;> rfl
@[simp] theorem setEnv_ch2 (i : Chan) (e : Envelope) : (setEnv i e s).ch2 = s.ch2 := by cases i <;> rfl
@[simp] theorem setEnv_masterEnable (i : Chan) (e : Envelope) : (setEnv i e s).masterEnable = s.masterEnable := by cases i <;> rfl
@[simp] theorem setEnv_soundEnabled (i : Chan) (e : Envelope) : (setEnv i e s).soundEnabled = s.soundEnabled := by cases i <;> rfl
@[simp] theorem setEnv_muted (i : Chan) (e : Envelope) : (setEnv i e s).muted = s.muted := by cases i <;> rfl
@[simp] theorem setEnv_target (i : Chan) (e : Envelope) : (setEnv i e s).target = s.target := by cases i <;> rfl
@[simp] theorem setEnv_accurateSync (i : Chan) (e : Envelope) : (setEnv i e s).accurateSync = s.accurateSync := by cases i <;> rfl
@[simp] theorem setEnv_masterVolume (i : Chan) (e : Envelope) : (setEnv i e s).masterVolume = s.masterVolume := by cases i <;> rfl
@[simp] theorem setEnv_routing (i : Chan) (e : Envelope) : (setEnv i e s).routing = s.routing := by cases i <;> rfl
@[simp] theorem setEnv_nextEvent (i : Chan) (e : Envelope) : (setEnv i e s).nextEvent = s.nextEvent := by cases i <;> rfl
@[simp] theorem setEnv_producerFlip (i : Chan) (e : Envelope) : (setEnv i e s).producerFlip = s.producerFlip := by cases i <;> rfl
@[simp] theorem setEnv_sampleBuf (i : Chan) (e : Envelope) : (setEnv i e s).sampleBuf = s.sampleBuf := by cases i <;> rfl
@[simp] theorem setEnv_diagCount (i : Chan) (e : Envelope) : (setEnv i e s).diagCount = s.diagCount := by cases i <;> rfl
@[simp] theorem setEnv_rsb (i : Chan) (e : Envelope) : (setEnv i e s).rsb = s.rsb := by cases i <;> rfl
@[simp] theorem setEnv_dsb (i : Chan) (e : Envelope) : (setEnv i e s).dsb = s.dsb := by cases i <;> rfl
@[simp] theorem setEnv_queue (i : Chan) (e : Envelope) : (setEnv i e s).queue = s.queue := by cases i <;> rfl
@[simp] theorem setEnv_started (i : Chan) (e : Envelope) : (setEnv i e s).started = s.started := by cases i <;> rfl
@[simp] theorem setEnv_held (i : Chan) (e : Envelope) : (setEnv i e s).held = s.held := by cases i <;> rfl
@[simp] theorem setEnv_consumer (i : Chan) (e : Envelope) : (setEnv i e s).consumer = s.consumer := by cases i <;> rfl
@[simp] theorem setEnv_io (i : Chan) (e : Envelope) : (setEnv i e s).io = s.io := by cases i <;> rfl
@[simp] theorem setEnv_stream (i : Chan) (e : Envelope) : (setEnv i e s).stream = s.stream := by cases i <;> rfl
@[simp] theorem setEnv_turns (i : Chan) (e : Envelope) : (setEnv i e s).turns = s.turns := by cases i <;> rfl
@[simp] theorem setEnv_draws (i : Chan) (e : Envelope) : (setEnv i e s).draws = s.draws := by cases i <;> rfl
@[simp] theorem setEnv_drawCount (i : Chan) (e : Envelope) : (setEnv i e s).drawCount = s.drawCount := by cases i <;> rfl
@[simp] theorem setEnv_events (i : Chan) (e : Envelope) : (setEnv i e s).events = s.events := by cases i <;> rfl

/-! ### setOn -/

@[simp] theorem setOn_cfg (i : Chan) (b : Bool) : (setOn i b s).cfg = s.cfg := by cases i <;> rfl
@[simp] theorem setOn_masterEnable (i : Chan) (b : Bool) : (setOn i b s).masterEnable = s.masterEnable := by cases i <;> rfl
@[simp] theorem setOn_soundEnabled (i : Chan) (b : Bool) : (setOn i b s).soundEnabled = s.soundEnabled := by cases i <;> rfl
@[simp] theorem setOn_muted (i : Chan) (b : Bool) : (setOn i b s).muted = s.muted := by cases i <;> rfl
@[simp] theorem setOn_target (i : Chan) (b : Bool) : (setOn i b s).target = s.target := by cases i <;> rfl
@[simp] theorem setOn_accurateSync (i : Chan) (b : Bool) : (setOn i b s).accurateSync = s.accurateSync := by cases i <;> rfl
@[simp] theorem setOn_masterVolume (i : Chan) (b : Bool) : (setOn i b s).masterVolume = s.masterVolume := by cases i <;> rfl
@[simp] theorem setOn_routing (i : Chan) (b : Bool) : (setOn i b s).routing = s.routing := by cases i <;> rfl
@[simp] theorem setOn_nextEvent (i : Chan) (b : Bool) : (setOn i b s).nextEvent = s.nextEvent := by cases i <;> rfl
@[simp] theorem setOn_producerFlip (i : Chan) (b : Bool) : (setOn i b s).producerFlip = s.producerFlip := by cases i <;> rfl
@[simp] theorem setOn_sampleBuf (i : Chan) (b : Bool) : (setOn i b s).sampleBuf = s.sampleBuf := by cases i <;> rfl
@[simp] theorem setOn_diagCount (i : Chan) (b : Bool) : (setOn i b s).diagCount = s.diagCount := by cases i <;> rfl
@[simp] theorem setOn_rsb (i : Chan) (b : Bool) : (setOn i b s).rsb = s.rsb := by cases i <;> rfl
@[simp] theorem setOn_dsb (i : Chan) (b : Bool) : (setOn i b s).dsb = s.dsb := by cases i <;> rfl
@[simp] theorem setOn_queue (i : Chan) (b : Bool) : (setOn i b s).queue = s.queue := by cases i <;> rfl
@[simp] theorem setOn_started (i : Chan) (b : Bool) : (setOn i b s).started = s.started := by cases i <;> rfl
@[simp] theorem setOn_held (i : Chan) (b : Bool) : (setOn i b s).held = s.held := by cases i <;> rfl
@[simp] theorem setOn_consumer (i : Chan) (b : Bool) : (setOn i b s).consumer = s.consumer := by cases i <;> rfl
@[simp] theorem setOn_io (i : Chan) (b : Bool) : (setOn i b s).io = s.io := by cases i <;> rfl
@[simp] theorem setOn_stream (i : Chan) (b : Bool) : (setOn i b s).stream = s.stream := by cases i <;> rfl
@[simp] theorem setOn_turns (i : Chan) (b : Bool) : (setOn i b s).turns = s.turns := by cases i <;> rfl
@[simp] theorem setOn_draws (i : Chan) (b : Bool) : (setOn i b s).draws = s.draws := by cases i <;> rfl
@[simp] theorem setOn_drawCount (i : Chan) (b : Bool) : (setOn i b s).drawCount = s.drawCount := by cases i <;> rfl
@[simp] theorem setOn_events (i : Chan) (b : Bool) : (setOn i b s).events = s.events := by cases i <;> rfl

/-! ### reloadLength -/

@[simp] theorem reloadLength_cfg (i : Chan) : (reloadLength i s).cfg = s.cfg := by cases i <;> rfl
@[simp] theorem reloadLength_masterEnable (i : Chan) : (reloadLength i s).masterEnable = s.masterEnable := by cases i <;> rfl
@[simp] theorem reloadLength_soundEnabled (i : Chan) : (reloadLength i s).soundEnabled = s.soundEnabled := by cases i <;> rfl
@[simp] theorem reloadLength_muted (i : Chan) : (reloadLength i s).muted = s.muted := by cases i <;> rfl
@[simp] theorem reloadLength_target (i : Chan) : (reloadLength i s).target = s.target := by cases i <;> rfl
@[simp] theorem reloadLength_accurateSync (i : Chan) : (reloadLength i s).accurateSync = s.accurateSync := by cases i <;> rfl
@[simp] theorem reloadLength_masterVolume (i : Chan) : (reloadLength i s).masterVolume = s.masterVolume := by cases i <;> rfl
@[simp] theorem reloadLength_routing (i : Chan) : (reloadLength i s).routing = s.routing := by cases i <;> rfl
@[simp] theorem reloadLength_nextEvent (i : Chan) : (reloadLength i s).nextEvent = s.nextEvent := by cases i <;> rfl
@[simp] theorem reloadLength_producerFlip (i : Chan) : (reloadLength i s).producerFlip = s.producerFlip := by cases i <;> rfl
@[simp] theorem reloadLength_sampleBuf (i : Chan) : (reloadLength i s).sampleBuf = s.sampleBuf := by cases i <;> rfl
@[simp] theorem reloadLength_diagCount (i : Chan) : (reloadLength i s).diagCount = s.diagCount := by cases i <;> rfl
@[simp] theorem reloadLength_rsb (i : Chan) : (reloadLength i s).rsb = s.rsb := by cases i <;> rfl
@[simp] theorem reloadLength_dsb (i : Chan) : (reloadLength i s).dsb = s.dsb := by cases i <;> rfl
@[simp] theorem reloadLength_queue (i : Chan) : (reloadLength i s).queue = s.queue := by cases i <;> rfl
@[simp] theorem reloadLength_started (i : Chan) : (reloadLength i s).started = s.started := by cases i <;> rfl
@[simp] theorem reloadLength_held (i : Chan) : (reloadLength i s).held = s.held := by cases i <;> rfl
@[simp] theorem reloadLength_consumer (i : Chan) : (reloadLength i s).consumer = s.consumer := by cases i <;> rfl
@[simp] theorem reloadLength_io (i : Chan) : (reloadLength i s).io = s.io := by cases i <;> rfl
@[simp] theorem reloadLength_stream (i : Chan) : (reloadLength i s).stream = s.stream := by cases i <;> rfl
@[simp] theorem reloadLength_turns (i : Chan) : (reloadLength i s).turns = s.turns := by cases i <;> rfl
@[simp] theorem reloadLength_draws (i : Chan) : (reloadLength i s).draws = s.draws := by cases i <;> rfl
@[simp] theorem reloadLength_drawCount (i : Chan) : (reloadLength i s).drawCount = s.drawCount := by cases i <;> rfl
@[simp] theorem reloadLength_events (i : Chan) : (reloadLength i s).events = s.events := by cases i <;> rfl

/-! ### commit -/

/-- A commit changes one block and nothing else (R288). -/
theorem commit_eq (f : Field) (v : Word) :
    commit f v s = s ∨ commit f v s = { s with rsb := s.rsb.put f v } ∨
      commit f v s = { s with dsb := s.dsb.put f v } := by
  unfold commit
  split
  · split
    · exact .inr (.inl rfl)
    · exact .inr (.inr rfl)
  · exact .inl rfl

@[simp] theorem commit_cfg (f : Field) (v : Word) : (commit f v s).cfg = s.cfg := by
  rcases commit_eq s f v with h | h | h <;> rw [h]
@[simp] theorem commit_ch0 (f : Field) (v : Word) : (commit f v s).ch0 = s.ch0 := by
  rcases commit_eq s f v with h | h | h <;> rw [h]
@[simp] theorem commit_ch1 (f : Field) (v : Word) : (commit f v s).ch1 = s.ch1 := by
  rcases commit_eq s f v with h | h | h <;> rw [h]
@[simp] theorem commit_ch2 (f : Field) (v : Word) : (commit f v s).ch2 = s.ch2 := by
  rcases commit_eq s f v with h | h | h <;> rw [h]
@[simp] theorem commit_ch3 (f : Field) (v : Word) : (commit f v s).ch3 = s.ch3 := by
  rcases commit_eq s f v with h | h | h <;> rw [h]
@[simp] theorem commit_masterEnable (f : Field) (v : Word) : (commit f v s).masterEnable = s.masterEnable := by
  rcases commit_eq s f v with h | h | h <;> rw [h]
@[simp] theorem commit_soundEnabled (f : Field) (v : Word) : (commit f v s).soundEnabled = s.soundEnabled := by
  rcases commit_eq s f v with h | h | h <;> rw [h]
@[simp] theorem commit_muted (f : Field) (v : Word) : (commit f v s).muted = s.muted := by
  rcases commit_eq s f v with h | h | h <;> rw [h]
@[simp] theorem commit_target (f : Field) (v : Word) : (commit f v s).target = s.target := by
  rcases commit_eq s f v with h | h | h <;> rw [h]
@[simp] theorem commit_accurateSync (f : Field) (v : Word) : (commit f v s).accurateSync = s.accurateSync := by
  rcases commit_eq s f v with h | h | h <;> rw [h]
@[simp] theorem commit_masterVolume (f : Field) (v : Word) : (commit f v s).masterVolume = s.masterVolume := by
  rcases commit_eq s f v with h | h | h <;> rw [h]
@[simp] theorem commit_routing (f : Field) (v : Word) : (commit f v s).routing = s.routing := by
  rcases commit_eq s f v with h | h | h <;> rw [h]
@[simp] theorem commit_nextEvent (f : Field) (v : Word) : (commit f v s).nextEvent = s.nextEvent := by
  rcases commit_eq s f v with h | h | h <;> rw [h]
@[simp] theorem commit_producerFlip (f : Field) (v : Word) : (commit f v s).producerFlip = s.producerFlip := by
  rcases commit_eq s f v with h | h | h <;> rw [h]
@[simp] theorem commit_sampleBuf (f : Field) (v : Word) : (commit f v s).sampleBuf = s.sampleBuf := by
  rcases commit_eq s f v with h | h | h <;> rw [h]
@[simp] theorem commit_diagCount (f : Field) (v : Word) : (commit f v s).diagCount = s.diagCount := by
  rcases commit_eq s f v with h | h | h <;> rw [h]
@[simp] theorem commit_queue (f : Field) (v : Word) : (commit f v s).queue = s.queue := by
  rcases commit_eq s f v with h | h | h <;> rw [h]
@[simp] theorem commit_started (f : Field) (v : Word) : (commit f v s).started = s.started := by
  rcases commit_eq s f v with h | h | h <;> rw [h]
@[simp] theorem commit_held (f : Field) (v : Word) : (commit f v s).held = s.held := by
  rcases commit_eq s f v with h | h | h <;> rw [h]
@[simp] theorem commit_consumer (f : Field) (v : Word) : (commit f v s).consumer = s.consumer := by
  rcases commit_eq s f v with h | h | h <;> rw [h]
@[simp] theorem commit_io (f : Field) (v : Word) : (commit f v s).io = s.io := by
  rcases commit_eq s f v with h | h | h <;> rw [h]
@[simp] theorem commit_stream (f : Field) (v : Word) : (commit f v s).stream = s.stream := by
  rcases commit_eq s f v with h | h | h <;> rw [h]
@[simp] theorem commit_turns (f : Field) (v : Word) : (commit f v s).turns = s.turns := by
  rcases commit_eq s f v with h | h | h <;> rw [h]
@[simp] theorem commit_draws (f : Field) (v : Word) : (commit f v s).draws = s.draws := by
  rcases commit_eq s f v with h | h | h <;> rw [h]
@[simp] theorem commit_drawCount (f : Field) (v : Word) : (commit f v s).drawCount = s.drawCount := by
  rcases commit_eq s f v with h | h | h <;> rw [h]
@[simp] theorem commit_events (f : Field) (v : Word) : (commit f v s).events = s.events := by
  rcases commit_eq s f v with h | h | h <;> rw [h]

/-! ### commitOnBit -/

@[simp] theorem commitOnBit_cfg (i : Chan) (b : Bool) : (commitOnBit i b s).cfg = s.cfg := by simp [commitOnBit]
@[simp] theorem commitOnBit_ch0 (i : Chan) (b : Bool) : (commitOnBit i b s).ch0 = s.ch0 := by simp [commitOnBit]
@[simp] theorem commitOnBit_ch1 (i : Chan) (b : Bool) : (commitOnBit i b s).ch1 = s.ch1 := by simp [commitOnBit]
@[simp] theorem commitOnBit_ch2 (i : Chan) (b : Bool) : (commitOnBit i b s).ch2 = s.ch2 := by simp [commitOnBit]
@[simp] theorem commitOnBit_ch3 (i : Chan) (b : Bool) : (commitOnBit i b s).ch3 = s.ch3 := by simp [commitOnBit]
@[simp] theorem commitOnBit_masterEnable (i : Chan) (b : Bool) : (commitOnBit i b s).masterEnable = s.masterEnable := by simp [commitOnBit]
@[simp] theorem commitOnBit_soundEnabled (i : Chan) (b : Bool) : (commitOnBit i b s).soundEnabled = s.soundEnabled := by simp [commitOnBit]
@[simp] theorem commitOnBit_muted (i : Chan) (b : Bool) : (commitOnBit i b s).muted = s.muted := by simp [commitOnBit]
@[simp] theorem commitOnBit_target (i : Chan) (b : Bool) : (commitOnBit i b s).target = s.target := by simp [commitOnBit]
@[simp] theorem commitOnBit_accurateSync (i : Chan) (b : Bool) : (commitOnBit i b s).accurateSync = s.accurateSync := by simp [commitOnBit]
@[simp] theorem commitOnBit_masterVolume (i : Chan) (b : Bool) : (commitOnBit i b s).masterVolume = s.masterVolume := by simp [commitOnBit]
@[simp] theorem commitOnBit_routing (i : Chan) (b : Bool) : (commitOnBit i b s).routing = s.routing := by simp [commitOnBit]
@[simp] theorem commitOnBit_nextEvent (i : Chan) (b : Bool) : (commitOnBit i b s).nextEvent = s.nextEvent := by simp [commitOnBit]
@[simp] theorem commitOnBit_producerFlip (i : Chan) (b : Bool) : (commitOnBit i b s).producerFlip = s.producerFlip := by simp [commitOnBit]
@[simp] theorem commitOnBit_sampleBuf (i : Chan) (b : Bool) : (commitOnBit i b s).sampleBuf = s.sampleBuf := by simp [commitOnBit]
@[simp] theorem commitOnBit_diagCount (i : Chan) (b : Bool) : (commitOnBit i b s).diagCount = s.diagCount := by simp [commitOnBit]
@[simp] theorem commitOnBit_queue (i : Chan) (b : Bool) : (commitOnBit i b s).queue = s.queue := by simp [commitOnBit]
@[simp] theorem commitOnBit_started (i : Chan) (b : Bool) : (commitOnBit i b s).started = s.started := by simp [commitOnBit]
@[simp] theorem commitOnBit_held (i : Chan) (b : Bool) : (commitOnBit i b s).held = s.held := by simp [commitOnBit]
@[simp] theorem commitOnBit_consumer (i : Chan) (b : Bool) : (commitOnBit i b s).consumer = s.consumer := by simp [commitOnBit]
@[simp] theorem commitOnBit_io (i : Chan) (b : Bool) : (commitOnBit i b s).io = s.io := by simp [commitOnBit]
@[simp] theorem commitOnBit_stream (i : Chan) (b : Bool) : (commitOnBit i b s).stream = s.stream := by simp [commitOnBit]
@[simp] theorem commitOnBit_turns (i : Chan) (b : Bool) : (commitOnBit i b s).turns = s.turns := by simp [commitOnBit]
@[simp] theorem commitOnBit_draws (i : Chan) (b : Bool) : (commitOnBit i b s).draws = s.draws := by simp [commitOnBit]
@[simp] theorem commitOnBit_drawCount (i : Chan) (b : Bool) : (commitOnBit i b s).drawCount = s.drawCount := by simp [commitOnBit]
@[simp] theorem commitOnBit_events (i : Chan) (b : Bool) : (commitOnBit i b s).events = s.events := by simp [commitOnBit]

/-! ### reportNext -/

@[simp] theorem reportNext_cfg (n : Int) : (reportNext n s).cfg = s.cfg := rfl
@[simp] theorem reportNext_ch0 (n : Int) : (reportNext n s).ch0 = s.ch0 := rfl
@[simp] theorem reportNext_ch1 (n : Int) : (reportNext n s).ch1 = s.ch1 := rfl
@[simp] theorem reportNext_ch2 (n : Int) : (reportNext n s).ch2 = s.ch2 := rfl
@[simp] theorem reportNext_ch3 (n : Int) : (reportNext n s).ch3 = s.ch3 := rfl
@[simp] theorem reportNext_masterEnable (n : Int) : (reportNext n s).masterEnable = s.masterEnable := rfl
@[simp] theorem reportNext_soundEnabled (n : Int) : (reportNext n s).soundEnabled = s.soundEnabled := rfl
@[simp] theorem reportNext_muted (n : Int) : (reportNext n s).muted = s.muted := rfl
@[simp] theorem reportNext_target (n : Int) : (reportNext n s).target = s.target := rfl
@[simp] theorem reportNext_accurateSync (n : Int) : (reportNext n s).accurateSync = s.accurateSync := rfl
@[simp] theorem reportNext_masterVolume (n : Int) : (reportNext n s).masterVolume = s.masterVolume := rfl
@[simp] theorem reportNext_routing (n : Int) : (reportNext n s).routing = s.routing := rfl
@[simp] theorem reportNext_producerFlip (n : Int) : (reportNext n s).producerFlip = s.producerFlip := rfl
@[simp] theorem reportNext_sampleBuf (n : Int) : (reportNext n s).sampleBuf = s.sampleBuf := rfl
@[simp] theorem reportNext_diagCount (n : Int) : (reportNext n s).diagCount = s.diagCount := rfl
@[simp] theorem reportNext_rsb (n : Int) : (reportNext n s).rsb = s.rsb := rfl
@[simp] theorem reportNext_dsb (n : Int) : (reportNext n s).dsb = s.dsb := rfl
@[simp] theorem reportNext_queue (n : Int) : (reportNext n s).queue = s.queue := rfl
@[simp] theorem reportNext_started (n : Int) : (reportNext n s).started = s.started := rfl
@[simp] theorem reportNext_held (n : Int) : (reportNext n s).held = s.held := rfl
@[simp] theorem reportNext_consumer (n : Int) : (reportNext n s).consumer = s.consumer := rfl
@[simp] theorem reportNext_io (n : Int) : (reportNext n s).io = s.io := rfl
@[simp] theorem reportNext_stream (n : Int) : (reportNext n s).stream = s.stream := rfl
@[simp] theorem reportNext_turns (n : Int) : (reportNext n s).turns = s.turns := rfl
@[simp] theorem reportNext_draws (n : Int) : (reportNext n s).draws = s.draws := rfl
@[simp] theorem reportNext_drawCount (n : Int) : (reportNext n s).drawCount = s.drawCount := rfl
@[simp] theorem reportNext_events (n : Int) : (reportNext n s).events = s.events := rfl

/-! ### emit -/

@[simp] theorem emit_cfg (e : HostEvent) : (emit e s).cfg = s.cfg := rfl
@[simp] theorem emit_ch0 (e : HostEvent) : (emit e s).ch0 = s.ch0 := rfl
@[simp] theorem emit_ch1 (e : HostEvent) : (emit e s).ch1 = s.ch1 := rfl
@[simp] theorem emit_ch2 (e : HostEvent) : (emit e s).ch2 = s.ch2 := rfl
@[simp] theorem emit_ch3 (e : HostEvent) : (emit e s).ch3 = s.ch3 := rfl
@[simp] theorem emit_masterEnable (e : HostEvent) : (emit e s).masterEnable = s.masterEnable := rfl
@[simp] theorem emit_soundEnabled (e : HostEvent) : (emit e s).soundEnabled = s.soundEnabled := rfl
@[simp] theorem emit_muted (e : HostEvent) : (emit e s).muted = s.muted := rfl
@[simp] theorem emit_target (e : HostEvent) : (emit e s).target = s.target := rfl
@[simp] theorem emit_accurateSync (e : HostEvent) : (emit e s).accurateSync = s.accurateSync := rfl
@[simp] theorem emit_masterVolume (e : HostEvent) : (emit e s).masterVolume = s.masterVolume := rfl
@[simp] theorem emit_routing (e : HostEvent) : (emit e s).routing = s.routing := rfl
@[simp] theorem emit_nextEvent (e : HostEvent) : (emit e s).nextEvent = s.nextEvent := rfl
@[simp] theorem emit_producerFlip (e : HostEvent) : (emit e s).producerFlip = s.producerFlip := rfl
@[simp] theorem emit_sampleBuf (e : HostEvent) : (emit e s).sampleBuf = s.sampleBuf := rfl
@[simp] theorem emit_diagCount (e : HostEvent) : (emit e s).diagCount = s.diagCount := rfl
@[simp] theorem emit_rsb (e : HostEvent) : (emit e s).rsb = s.rsb := rfl
@[simp] theorem emit_dsb (e : HostEvent) : (emit e s).dsb = s.dsb := rfl
@[simp] theorem emit_queue (e : HostEvent) : (emit e s).queue = s.queue := rfl
@[simp] theorem emit_started (e : HostEvent) : (emit e s).started = s.started := rfl
@[simp] theorem emit_held (e : HostEvent) : (emit e s).held = s.held := rfl
@[simp] theorem emit_consumer (e : HostEvent) : (emit e s).consumer = s.consumer := rfl
@[simp] theorem emit_io (e : HostEvent) : (emit e s).io = s.io := rfl
@[simp] theorem emit_stream (e : HostEvent) : (emit e s).stream = s.stream := rfl
@[simp] theorem emit_turns (e : HostEvent) : (emit e s).turns = s.turns := rfl
@[simp] theorem emit_draws (e : HostEvent) : (emit e s).draws = s.draws := rfl
@[simp] theorem emit_drawCount (e : HostEvent) : (emit e s).drawCount = s.drawCount := rfl

/-! ### signalDeactivate -/

@[simp] theorem signalDeactivate_cfg (i : Chan) : (signalDeactivate i s).cfg = s.cfg := rfl
@[simp] theorem signalDeactivate_ch0 (i : Chan) : (signalDeactivate i s).ch0 = s.ch0 := rfl
@[simp] theorem signalDeactivate_ch1 (i : Chan) : (signalDeactivate i s).ch1 = s.ch1 := rfl
@[simp] theorem signalDeactivate_ch2 (i : Chan) : (signalDeactivate i s).ch2 = s.ch2 := rfl
@[simp] theorem signalDeactivate_ch3 (i : Chan) : (signalDeactivate i s).ch3 = s.ch3 := rfl
@[simp] theorem signalDeactivate_masterEnable (i : Chan) : (signalDeactivate i s).masterEnable = s.masterEnable := rfl
@[simp] theorem signalDeactivate_soundEnabled (i : Chan) : (signalDeactivate i s).soundEnabled = s.soundEnabled := rfl
@[simp] theorem signalDeactivate_muted (i : Chan) : (signalDeactivate i s).muted = s.muted := rfl
@[simp] theorem signalDeactivate_target (i : Chan) : (signalDeactivate i s).target = s.target := rfl
@[simp] theorem signalDeactivate_accurateSync (i : Chan) : (signalDeactivate i s).accurateSync = s.accurateSync := rfl
@[simp] theorem signalDeactivate_masterVolume (i : Chan) : (signalDeactivate i s).masterVolume = s.masterVolume := rfl
@[simp] theorem signalDeactivate_routing (i : Chan) : (signalDeactivate i s).routing = s.routing := rfl
@[simp] theorem signalDeactivate_nextEvent (i : Chan) : (signalDeactivate i s).nextEvent = s.nextEvent := rfl
@[simp] theorem signalDeactivate_producerFlip (i : Chan) : (signalDeactivate i s).producerFlip = s.producerFlip := rfl
@[simp] theorem signalDeactivate_sampleBuf (i : Chan) : (signalDeactivate i s).sampleBuf = s.sampleBuf := rfl
@[simp] theorem signalDeactivate_diagCount (i : Chan) : (signalDeactivate i s).diagCount = s.diagCount := rfl
@[simp] theorem signalDeactivate_rsb (i : Chan) : (signalDeactivate i s).rsb = s.rsb := rfl
@[simp] theorem signalDeactivate_dsb (i : Chan) : (signalDeactivate i s).dsb = s.dsb := rfl
@[simp] theorem signalDeactivate_queue (i : Chan) : (signalDeactivate i s).queue = s.queue := rfl
@[simp] theorem signalDeactivate_started (i : Chan) : (signalDeactivate i s).started = s.started := rfl
@[simp] theorem signalDeactivate_held (i : Chan) : (signalDeactivate i s).held = s.held := rfl
@[simp] theorem signalDeactivate_consumer (i : Chan) : (signalDeactivate i s).consumer = s.consumer := rfl
@[simp] theorem signalDeactivate_io (i : Chan) : (signalDeactivate i s).io = s.io := rfl
@[simp] theorem signalDeactivate_stream (i : Chan) : (signalDeactivate i s).stream = s.stream := rfl
@[simp] theorem signalDeactivate_turns (i : Chan) : (signalDeactivate i s).turns = s.turns := rfl
@[simp] theorem signalDeactivate_draws (i : Chan) : (signalDeactivate i s).draws = s.draws := rfl
@[simp] theorem signalDeactivate_drawCount (i : Chan) : (signalDeactivate i s).drawCount = s.drawCount := rfl

/-! ### diag -/

@[simp] theorem diag_cfg (c : DiagCode) : (diag c s).cfg = s.cfg := rfl
@[simp] theorem diag_ch0 (c : DiagCode) : (diag c s).ch0 = s.ch0 := rfl
@[simp] theorem diag_ch1 (c : DiagCode) : (diag c s).ch1 = s.ch1 := rfl
@[simp] theorem diag_ch2 (c : DiagCode) : (diag c s).ch2 = s.ch2 := rfl
@[simp] theorem diag_ch3 (c : DiagCode) : (diag c s).ch3 = s.ch3 := rfl
@[simp] theorem diag_masterEnable (c : DiagCode) : (diag c s).masterEnable = s.masterEnable := rfl
@[simp] theorem diag_soundEnabled (c : DiagCode) : (diag c s).soundEnabled = s.soundEnabled := rfl
@[simp] theorem diag_muted (c : DiagCode) : (diag c s).muted = s.muted := rfl
@[simp] theorem diag_target (c : DiagCode) : (diag c s).target = s.target := rfl
@[simp] theorem diag_accurateSync (c : DiagCode) : (diag c s).accurateSync = s.accurateSync := rfl
@[simp] theorem diag_masterVolume (c : DiagCode) : (diag c s).masterVolume = s.masterVolume := rfl
@[simp] theorem diag_routing (c : DiagCode) : (diag c s).routing = s.routing := rfl
@[simp] theorem diag_nextEvent (c : DiagCode) : (diag c s).nextEvent = s.nextEvent := rfl
@[simp] theorem diag_producerFlip (c : DiagCode) : (diag c s).producerFlip = s.producerFlip := rfl
@[simp] theorem diag_sampleBuf (c : DiagCode) : (diag c s).sampleBuf = s.sampleBuf := rfl
@[simp] theorem diag_rsb (c : DiagCode) : (diag c s).rsb = s.rsb := rfl
@[simp] theorem diag_dsb (c : DiagCode) : (diag c s).dsb = s.dsb := rfl
@[simp] theorem diag_queue (c : DiagCode) : (diag c s).queue = s.queue := rfl
@[simp] theorem diag_started (c : DiagCode) : (diag c s).started = s.started := rfl
@[simp] theorem diag_held (c : DiagCode) : (diag c s).held = s.held := rfl
@[simp] theorem diag_consumer (c : DiagCode) : (diag c s).consumer = s.consumer := rfl
@[simp] theorem diag_io (c : DiagCode) : (diag c s).io = s.io := rfl
@[simp] theorem diag_stream (c : DiagCode) : (diag c s).stream = s.stream := rfl
@[simp] theorem diag_turns (c : DiagCode) : (diag c s).turns = s.turns := rfl
@[simp] theorem diag_draws (c : DiagCode) : (diag c s).draws = s.draws := rfl
@[simp] theorem diag_drawCount (c : DiagCode) : (diag c s).drawCount = s.drawCount := rfl

/-! ### countMessage -/

@[simp] theorem countMessage_cfg : (countMessage s).cfg = s.cfg := rfl
@[simp] theorem countMessage_ch0 : (countMessage s).ch0 = s.ch0 := rfl
@[simp] theorem countMessage_ch1 : (countMessage s).ch1 = s.ch1 := rfl
@[simp] theorem countMessage_ch2 : (countMessage s).ch2 = s.ch2 := rfl
@[simp] theorem countMessage_ch3 : (countMessage s).ch3 = s.ch3 := rfl
@[simp] theorem countMessage_masterEnable : (countMessage s).masterEnable = s.masterEnable := rfl
@[simp] theorem countMessage_soundEnabled : (countMessage s).soundEnabled = s.soundEnabled := rfl
@[simp] theorem countMessage_muted : (countMessage s).muted = s.muted := rfl
@[simp] theorem countMessage_target : (countMessage s).target = s.target := rfl
@[simp] theorem countMessage_accurateSync : (countMessage s).accurateSync = s.accurateSync := rfl
@[simp] theorem countMessage_masterVolume : (countMessage s).masterVolume = s.masterVolume := rfl
@[simp] theorem countMessage_routing : (countMessage s).routing = s.routing := rfl
@[simp] theorem countMessage_nextEvent : (countMessage s).nextEvent = s.nextEvent := rfl
@[simp] theorem countMessage_producerFlip : (countMessage s).producerFlip = s.producerFlip := rfl
@[simp] theorem countMessage_sampleBuf : (countMessage s).sampleBuf = s.sampleBuf := rfl
@[simp] theorem countMessage_diagCount : (countMessage s).diagCount = s.diagCount := rfl
@[simp] theorem countMessage_dsb : (countMessage s).dsb = s.dsb := rfl
@[simp] theorem countMessage_queue : (countMessage s).queue = s.queue := rfl
@[simp] theorem countMessage_started : (countMessage s).started = s.started := rfl
@[simp] theorem countMessage_held : (countMessage s).held = s.held := rfl
@[simp] theorem countMessage_io : (countMessage s).io = s.io := rfl
@[simp] theorem countMessage_stream : (countMessage s).stream = s.stream := rfl
@[simp] theorem countMessage_turns : (countMessage s).turns = s.turns := rfl
@[simp] theorem countMessage_draws : (countMessage s).draws = s.draws := rfl
@[simp] theorem countMessage_drawCount : (countMessage s).drawCount = s.drawCount := rfl
@[simp] theorem countMessage_events : (countMessage s).events = s.events := rfl

/-! ### deferTasks -/

@[simp] theorem deferTasks_cfg (ts : List Task) : (deferTasks ts s).cfg = s.cfg := rfl
@[simp] theorem deferTasks_ch0 (ts : List Task) : (deferTasks ts s).ch0 = s.ch0 := rfl
@[simp] theorem deferTasks_ch1 (ts : List Task) : (deferTasks ts s).ch1 = s.ch1 := rfl
@[simp] theorem deferTasks_ch2 (ts : List Task) : (deferTasks ts s).ch2 = s.ch2 := rfl
@[simp] theorem deferTasks_ch3 (ts : List Task) : (deferTasks ts s).ch3 = s.ch3 := rfl
@[simp] theorem deferTasks_masterEnable (ts : List Task) : (deferTasks ts s).masterEnable = s.masterEnable := rfl
@[simp] theorem deferTasks_soundEnabled (ts : List Task) : (deferTasks ts s).soundEnabled = s.soundEnabled := rfl
@[simp] theorem deferTasks_muted (ts : List Task) : (deferTasks ts s).muted = s.muted := rfl
@[simp] theorem deferTasks_target (ts : List Task) : (deferTasks ts s).target = s.target := rfl
@[simp] theorem deferTasks_accurateSync (ts : List Task) : (deferTasks ts s).accurateSync = s.accurateSync := rfl
@[simp] theorem deferTasks_masterVolume (ts : List Task) : (deferTasks ts s).masterVolume = s.masterVolume := rfl
@[simp] theorem deferTasks_routing (ts : List Task) : (deferTasks ts s).routing = s.routing := rfl
@[simp] theorem deferTasks_nextEvent (ts : List Task) : (deferTasks ts s).nextEvent = s.nextEvent := rfl
@[simp] theorem deferTasks_producerFlip (ts : List Task) : (deferTasks ts s).producerFlip = s.producerFlip := rfl
@[simp] theorem deferTasks_sampleBuf (ts : List Task) : (deferTasks ts s).sampleBuf = s.sampleBuf := rfl
@[simp] theorem deferTasks_diagCount (ts : List Task) : (deferTasks ts s).diagCount = s.diagCount := rfl
@[simp] theorem deferTasks_rsb (ts : List Task) : (deferTasks ts s).rsb = s.rsb := rfl
@[simp] theorem deferTasks_dsb (ts : List Task) : (deferTasks ts s).dsb = s.dsb := rfl
@[simp] theorem deferTasks_queue (ts : List Task) : (deferTasks ts s).queue = s.queue := rfl
@[simp] theorem deferTasks_started (ts : List Task) : (deferTasks ts s).started = s.started := rfl
@[simp] theorem deferTasks_consumer (ts : List Task) : (deferTasks ts s).consumer = s.consumer := rfl
@[simp] theorem deferTasks_io (ts : List Task) : (deferTasks ts s).io = s.io := rfl
@[simp] theorem deferTasks_stream (ts : List Task) : (deferTasks ts s).stream = s.stream := rfl
@[simp] theorem deferTasks_turns (ts : List Task) : (deferTasks ts s).turns = s.turns := rfl
@[simp] theorem deferTasks_draws (ts : List Task) : (deferTasks ts s).draws = s.draws := rfl
@[simp] theorem deferTasks_drawCount (ts : List Task) : (deferTasks ts s).drawCount = s.drawCount := rfl
@[simp] theorem deferTasks_events (ts : List Task) : (deferTasks ts s).events = s.events := rfl

/-! ### afterDraw -/

@[simp] theorem afterDraw_cfg : (afterDraw s).cfg = s.cfg := by unfold afterDraw; split <;> rfl
@[simp] theorem afterDraw_ch0 : (afterDraw s).ch0 = s.ch0 := by unfold afterDraw; split <;> rfl
@[simp] theorem afterDraw_ch1 : (afterDraw s).ch1 = s.ch1 := by unfold afterDraw; split <;> rfl
@[simp] theorem afterDraw_ch2 : (afterDraw s).ch2 = s.ch2 := by unfold afterDraw; split <;> rfl
@[simp] theorem afterDraw_ch3 : (afterDraw s).ch3 = s.ch3 := by unfold afterDraw; split <;> rfl
@[simp] theorem afterDraw_masterEnable : (afterDraw s).masterEnable = s.masterEnable := by unfold afterDraw; split <;> rfl
@[simp] theorem afterDraw_soundEnabled : (afterDraw s).soundEnabled = s.soundEnabled := by unfold afterDraw; split <;> rfl
@[simp] theorem afterDraw_muted : (afterDraw s).muted = s.muted := by unfold afterDraw; split <;> rfl
@[simp] theorem afterDraw_target : (afterDraw s).target = s.target := by unfold afterDraw; split <;> rfl
@[simp] theorem afterDraw_accurateSync : (afterDraw s).accurateSync = s.accurateSync := by unfold afterDraw; split <;> rfl
@[simp] theorem afterDraw_masterVolume : (afterDraw s).masterVolume = s.masterVolume := by unfold afterDraw; split <;> rfl
@[simp] theorem afterDraw_routing : (afterDraw s).routing = s.routing := by unfold afterDraw; split <;> rfl
@[simp] theorem afterDraw_nextEvent : (afterDraw s).nextEvent = s.nextEvent := by unfold afterDraw; split <;> rfl
@[simp] theorem afterDraw_producerFlip : (afterDraw s).producerFlip = s.producerFlip := by unfold afterDraw; split <;> rfl
@[simp] theorem afterDraw_sampleBuf : (afterDraw s).sampleBuf = s.sampleBuf := by unfold afterDraw; split <;> rfl
@[simp] theorem afterDraw_diagCount : (afterDraw s).diagCount = s.diagCount := by unfold afterDraw; split <;> rfl
@[simp] theorem afterDraw_rsb : (afterDraw s).rsb = s.rsb := by unfold afterDraw; split <;> rfl
@[simp] theorem afterDraw_dsb : (afterDraw s).dsb = s.dsb := by unfold afterDraw; split <;> rfl
@[simp] theorem afterDraw_queue : (afterDraw s).queue = s.queue := by unfold afterDraw; split <;> rfl
@[simp] theorem afterDraw_started : (afterDraw s).started = s.started := by unfold afterDraw; split <;> rfl
@[simp] theorem afterDraw_held : (afterDraw s).held = s.held := by unfold afterDraw; split <;> rfl
@[simp] theorem afterDraw_consumer : (afterDraw s).consumer = s.consumer := by unfold afterDraw; split <;> rfl
@[simp] theorem afterDraw_io : (afterDraw s).io = s.io := by unfold afterDraw; split <;> rfl
@[simp] theorem afterDraw_stream : (afterDraw s).stream = s.stream := by unfold afterDraw; split <;> rfl
@[simp] theorem afterDraw_turns : (afterDraw s).turns = s.turns := by unfold afterDraw; split <;> rfl
@[simp] theorem afterDraw_events : (afterDraw s).events = s.events := by unfold afterDraw; split <;> rfl

@[simp] theorem reportNext_nextEvent (n : Int) : (reportNext n s).nextEvent = min s.nextEvent n := rfl
@[simp] theorem emit_events (e : HostEvent) : (emit e s).events = s.events ++ [e] := rfl
@[simp] theorem signalDeactivate_events (i : Chan) :
    (signalDeactivate i s).events = s.events ++ [.deactivate i] := rfl
@[simp] theorem diag_events (c : DiagCode) : (diag c s).events = s.events ++ [.diag c] := rfl
@[simp] theorem diag_diagCount (c : DiagCode) : (diag c s).diagCount = s.diagCount.bump c := rfl
@[simp] theorem countMessage_rsb :
    (countMessage s).rsb = s.rsb.put .recvCount (s.rsb.recvCount + 1) := rfl
@[simp] theorem countMessage_consumer :
    (countMessage s).consumer = { s.consumer with dequeued := none } := rfl
@[simp] theorem deferTasks_held (ts : List Task) :
    (deferTasks ts s).held = s.held.map fun h => { h with rest := h.rest ++ ts } := rfl

/-! ### Reading a record after an update -/

/-- The common part of a record, after one is replaced. -/
theorem setVoice_voice (i j : Chan) (v : Voice) :
    (setVoice i v s).voice j = if j = i then v else s.voice j := by cases i <;> cases j <;> rfl

@[simp] theorem setVoice_voice_same (i : Chan) (v : Voice) : (setVoice i v s).voice i = v := by
  cases i <;> rfl

/-- The envelope, after one is replaced. -/
theorem setEnv_env (i j : Chan) (e : Envelope) :
    (setEnv i e s).env j = if j = i ∧ j ≠ .c2 then some e else s.env j := by
  cases i <;> cases j <;> rfl

@[simp] theorem setVoice_env (i j : Chan) (v : Voice) : (setVoice i v s).env j = s.env j := by
  cases i <;> cases j <;> rfl
@[simp] theorem setVoice_vol (i j : Chan) (v : Voice) : (setVoice i v s).vol j = s.vol j := by
  cases i <;> cases j <;> rfl
@[simp] theorem setVoice_freq (i j : Chan) (v : Voice) : (setVoice i v s).freq j = s.freq j := by
  cases i <;> cases j <;> rfl
@[simp] theorem setVoice_duty (i j : Chan) (v : Voice) : (setVoice i v s).duty j = s.duty j := by
  cases i <;> cases j <;> rfl
@[simp] theorem setVoice_len (i j : Chan) (v : Voice) : (setVoice i v s).len j = s.len j := by
  cases i <;> cases j <;> rfl
@[simp] theorem setEnv_voice (i j : Chan) (e : Envelope) : (setEnv i e s).voice j = s.voice j := by
  cases i <;> cases j <;> rfl
@[simp] theorem setEnv_freq (i j : Chan) (e : Envelope) : (setEnv i e s).freq j = s.freq j := by
  cases i <;> cases j <;> rfl
@[simp] theorem setEnv_duty (i j : Chan) (e : Envelope) : (setEnv i e s).duty j = s.duty j := by
  cases i <;> cases j <;> rfl
@[simp] theorem setEnv_len (i j : Chan) (e : Envelope) : (setEnv i e s).len j = s.len j := by
  cases i <;> cases j <;> rfl

/-! ### The records read by an update that leaves them all alone -/

@[simp] theorem commit_voice (f : Field) (v : Word) (j : Chan) : (commit f v s).voice j = s.voice j := by
  cases j <;> simp [State.voice]
@[simp] theorem commit_env (f : Field) (v : Word) (j : Chan) : (commit f v s).env j = s.env j := by
  cases j <;> simp [State.env]
@[simp] theorem commit_vol (f : Field) (v : Word) (j : Chan) : (commit f v s).vol j = s.vol j := by
  cases j <;> simp [State.vol]
@[simp] theorem commit_freq (f : Field) (v : Word) (j : Chan) : (commit f v s).freq j = s.freq j := by
  cases j <;> simp [State.freq]
@[simp] theorem commit_duty (f : Field) (v : Word) (j : Chan) : (commit f v s).duty j = s.duty j := by
  cases j <;> simp [State.duty]
@[simp] theorem commit_len (f : Field) (v : Word) (j : Chan) : (commit f v s).len j = s.len j := by
  cases j <;> simp [State.len]
@[simp] theorem commit_params (f : Field) (v : Word) (j : Chan) : (commit f v s).params j = s.params j := by
  simp [State.params]
@[simp] theorem commitOnBit_voice (i : Chan) (b : Bool) (j : Chan) : (commitOnBit i b s).voice j = s.voice j := by
  cases j <;> simp [State.voice]
@[simp] theorem commitOnBit_env (i : Chan) (b : Bool) (j : Chan) : (commitOnBit i b s).env j = s.env j := by
  cases j <;> simp [State.env]
@[simp] theorem commitOnBit_vol (i : Chan) (b : Bool) (j : Chan) : (commitOnBit i b s).vol j = s.vol j := by
  cases j <;> simp [State.vol]
@[simp] theorem commitOnBit_freq (i : Chan) (b : Bool) (j : Chan) : (commitOnBit i b s).freq j = s.freq j := by
  cases j <;> simp [State.freq]
@[simp] theorem commitOnBit_duty (i : Chan) (b : Bool) (j : Chan) : (commitOnBit i b s).duty j = s.duty j := by
  cases j <;> simp [State.duty]
@[simp] theorem commitOnBit_len (i : Chan) (b : Bool) (j : Chan) : (commitOnBit i b s).len j = s.len j := by
  cases j <;> simp [State.len]
@[simp] theorem commitOnBit_params (i : Chan) (b : Bool) (j : Chan) : (commitOnBit i b s).params j = s.params j := by
  simp [State.params]
@[simp] theorem reportNext_voice (n : Int) (j : Chan) : (reportNext n s).voice j = s.voice j := by
  cases j <;> simp [State.voice]
@[simp] theorem reportNext_env (n : Int) (j : Chan) : (reportNext n s).env j = s.env j := by
  cases j <;> simp [State.env]
@[simp] theorem reportNext_vol (n : Int) (j : Chan) : (reportNext n s).vol j = s.vol j := by
  cases j <;> simp [State.vol]
@[simp] theorem reportNext_freq (n : Int) (j : Chan) : (reportNext n s).freq j = s.freq j := by
  cases j <;> simp [State.freq]
@[simp] theorem reportNext_duty (n : Int) (j : Chan) : (reportNext n s).duty j = s.duty j := by
  cases j <;> simp [State.duty]
@[simp] theorem reportNext_len (n : Int) (j : Chan) : (reportNext n s).len j = s.len j := by
  cases j <;> simp [State.len]
@[simp] theorem reportNext_params (n : Int) (j : Chan) : (reportNext n s).params j = s.params j := by
  simp [State.params]
@[simp] theorem emit_voice (e : HostEvent) (j : Chan) : (emit e s).voice j = s.voice j := by
  cases j <;> simp [State.voice]
@[simp] theorem emit_env (e : HostEvent) (j : Chan) : (emit e s).env j = s.env j := by
  cases j <;> simp [State.env]
@[simp] theorem emit_vol (e : HostEvent) (j : Chan) : (emit e s).vol j = s.vol j := by
  cases j <;> simp [State.vol]
@[simp] theorem emit_freq (e : HostEvent) (j : Chan) : (emit e s).freq j = s.freq j := by
  cases j <;> simp [State.freq]
@[simp] theorem emit_duty (e : HostEvent) (j : Chan) : (emit e s).duty j = s.duty j := by
  cases j <;> simp [State.duty]
@[simp] theorem emit_len (e : HostEvent) (j : Chan) : (emit e s).len j = s.len j := by
  cases j <;> simp [State.len]
@[simp] theorem emit_params (e : HostEvent) (j : Chan) : (emit e s).params j = s.params j := by
  simp [State.params]
@[simp] theorem signalDeactivate_voice (i : Chan) (j : Chan) : (signalDeactivate i s).voice j = s.voice j := by
  cases j <;> simp [State.voice]
@[simp] theorem signalDeactivate_env (i : Chan) (j : Chan) : (signalDeactivate i s).env j = s.env j := by
  cases j <;> simp [State.env]
@[simp] theorem signalDeactivate_vol (i : Chan) (j : Chan) : (signalDeactivate i s).vol j = s.vol j := by
  cases j <;> simp [State.vol]
@[simp] theorem signalDeactivate_freq (i : Chan) (j : Chan) : (signalDeactivate i s).freq j = s.freq j := by
  cases j <;> simp [State.freq]
@[simp] theorem signalDeactivate_duty (i : Chan) (j : Chan) : (signalDeactivate i s).duty j = s.duty j := by
  cases j <;> simp [State.duty]
@[simp] theorem signalDeactivate_len (i : Chan) (j : Chan) : (signalDeactivate i s).len j = s.len j := by
  cases j <;> simp [State.len]
@[simp] theorem signalDeactivate_params (i : Chan) (j : Chan) : (signalDeactivate i s).params j = s.params j := by
  simp [State.params]
@[simp] theorem diag_voice (c : DiagCode) (j : Chan) : (diag c s).voice j = s.voice j := by
  cases j <;> simp [State.voice]
@[simp] theorem diag_env (c : DiagCode) (j : Chan) : (diag c s).env j = s.env j := by
  cases j <;> simp [State.env]
@[simp] theorem diag_vol (c : DiagCode) (j : Chan) : (diag c s).vol j = s.vol j := by
  cases j <;> simp [State.vol]
@[simp] theorem diag_freq (c : DiagCode) (j : Chan) : (diag c s).freq j = s.freq j := by
  cases j <;> simp [State.freq]
@[simp] theorem diag_duty (c : DiagCode) (j : Chan) : (diag c s).duty j = s.duty j := by
  cases j <;> simp [State.duty]
@[simp] theorem diag_len (c : DiagCode) (j : Chan) : (diag c s).len j = s.len j := by
  cases j <;> simp [State.len]
@[simp] theorem diag_params (c : DiagCode) (j : Chan) : (diag c s).params j = s.params j := by
  simp [State.params]

end Sys2Proof.Machine
end

