-- ==== Sys2Proof/Laws/Shared.lean ====
section
/-! SUPPORT. The shared block: reading a field after a write, each component after a write, and the layout of R64. -/

namespace Sys2Proof.Machine

/-! ### Per-channel values -/

theorem PerChan.get_set {α : Type} (q : PerChan α) (i j : Chan) (v : α) :
    (q.set i v).get j = if j = i then v else q.get j := by
  cases i <;> cases j <;> rfl

/-- A value is its four parts. -/
theorem PerChan.ext_get {α : Type} {p q : PerChan α} (h : ∀ i, p.get i = q.get i) : p = q := by
  cases p; cases q
  simp only [PerChan.mk.injEq]
  exact ⟨h .c0, h .c1, h .c2, h .c3⟩

/-! ### Fields -/

/-- The bits a field keeps of a written word: as many as its own width holds (R35). -/
def fieldBits : Field → Nat
  | .onMask => 4
  | .hyperSync | .producerFlip | .consumerFlip | .flipInProgress | .transferInProgress => 1
  | .masterVolume | .routing | .vol _ | .pan _ | .duty _ => 8
  | .freq _ => 16
  | .message | .sentCount | .recvCount | .syncCycle | .consumerCycle | .sampleBufPtr => 32

/-- A flag's word has the flag as bit 0. -/
theorem flagWord_getLsbD (v : Word) : flagWord (v.getLsbD 0) = (v.setWidth 1).setWidth 32 := by
  apply BitVec.eq_of_toNat_eq
  simp only [flagWord, BitVec.toNat_setWidth, BitVec.getLsbD, Nat.testBit_zero]
  have := Nat.mod_two_eq_zero_or_one v.toNat
  rcases this with h | h <;> simp [h]

@[simp] theorem flagWord_bit (b : Bool) : (flagWord b).getLsbD 0 = b := by cases b <;> rfl

/-- The field just written, cut to its width. -/
theorem SharedBlock.get_put_same (b : SharedBlock) (f : Field) (v : Word) :
    (b.put f v).get f = (v.setWidth (fieldBits f)).setWidth 32 := by
  cases f <;>
    first
    | exact flagWord_getLsbD v
    | simp [SharedBlock.put, SharedBlock.get, PerChan.get_set, fieldBits]

/-- Every other field is as before. -/
theorem SharedBlock.get_put_other (b : SharedBlock) {f g : Field} (v : Word) (h : g ≠ f) :
    (b.put f v).get g = b.get g := by
  cases f <;> cases g <;>
    first
    | rfl
    | exact absurd rfl h
    | (simp only [SharedBlock.put, SharedBlock.get, PerChan.get_set]
       rw [if_neg (fun e => h (by rw [e]))])

/-- A block is its fields. -/
theorem SharedBlock.ext_get {a b : SharedBlock} (h : ∀ f, a.get f = b.get f) : a = b := by
  have hw {n : Nat} {x y : BitVec n} (hn : n ≤ 32) (e : x.setWidth 32 = y.setWidth 32) : x = y := by
    apply BitVec.eq_of_toNat_eq
    have e' := congrArg BitVec.toNat e
    simp only [BitVec.toNat_setWidth] at e'
    have hp : 2 ^ n ≤ 2 ^ 32 := Nat.pow_le_pow_right (by omega) hn
    rwa [Nat.mod_eq_of_lt (Nat.lt_of_lt_of_le x.isLt hp),
      Nat.mod_eq_of_lt (Nat.lt_of_lt_of_le y.isLt hp)] at e'
  have hf {x y : Bool} (e : flagWord x = flagWord y) : x = y := by
    cases x <;> cases y <;> first | rfl | exact absurd e (by decide)
  have hvol : a.vol = b.vol := PerChan.ext_get fun i => hw (by omega) (h (.vol i))
  have hfreq : a.freq = b.freq := PerChan.ext_get fun i => hw (by omega) (h (.freq i))
  have hpan : a.pan = b.pan := PerChan.ext_get fun i => hw (by omega) (h (.pan i))
  have hduty : a.duty = b.duty := PerChan.ext_get fun i => hw (by omega) (h (.duty i))
  have h1 := hw (by omega) (h .onMask)
  have h2 := hw (by omega) (h .masterVolume)
  have h3 := hw (by omega) (h .routing)
  have h4 := hf (h .hyperSync)
  have h5 := h .message
  have h6 := h .sentCount
  have h7 := h .recvCount
  have h8 := h .syncCycle
  have h9 := h .consumerCycle
  have h10 := hf (h .producerFlip)
  have h11 := hf (h .consumerFlip)
  have h12 := hf (h .flipInProgress)
  have h13 := hf (h .transferInProgress)
  have h14 := h .sampleBufPtr
  cases a; cases b
  simp only [SharedBlock.get] at *
  simp_all

/-! ### Components after a write of another field -/

variable (b : SharedBlock) (v : Word)
theorem SharedBlock.put_onMask_of_ne {f : Field} (h : f ≠ .onMask) : (b.put f v).onMask = b.onMask := by
  cases f <;> first | rfl | exact absurd rfl h
@[simp] theorem SharedBlock.put_onMask : (b.put .onMask v).onMask = v.setWidth 4 := rfl
theorem SharedBlock.put_masterVolume_of_ne {f : Field} (h : f ≠ .masterVolume) : (b.put f v).masterVolume = b.masterVolume := by
  cases f <;> first | rfl | exact absurd rfl h
@[simp] theorem SharedBlock.put_masterVolume : (b.put .masterVolume v).masterVolume = v.setWidth 8 := rfl
theorem SharedBlock.put_routing_of_ne {f : Field} (h : f ≠ .routing) : (b.put f v).routing = b.routing := by
  cases f <;> first | rfl | exact absurd rfl h
@[simp] theorem SharedBlock.put_routing : (b.put .routing v).routing = v.setWidth 8 := rfl
theorem SharedBlock.put_hyperSync_of_ne {f : Field} (h : f ≠ .hyperSync) : (b.put f v).hyperSync = b.hyperSync := by
  cases f <;> first | rfl | exact absurd rfl h
@[simp] theorem SharedBlock.put_hyperSync : (b.put .hyperSync v).hyperSync = v.getLsbD 0 := rfl
theorem SharedBlock.put_vol_of_ne {f : Field} (h : ∀ i, f ≠ .vol i) : (b.put f v).vol = b.vol := by
  cases f <;> first | rfl | exact absurd rfl (h _)
@[simp] theorem SharedBlock.put_vol (i : Chan) : (b.put (.vol i) v).vol = b.vol.set i (v.setWidth 8) := rfl
theorem SharedBlock.put_freq_of_ne {f : Field} (h : ∀ i, f ≠ .freq i) : (b.put f v).freq = b.freq := by
  cases f <;> first | rfl | exact absurd rfl (h _)
@[simp] theorem SharedBlock.put_freq (i : Chan) : (b.put (.freq i) v).freq = b.freq.set i (v.setWidth 16) := rfl
theorem SharedBlock.put_pan_of_ne {f : Field} (h : ∀ i, f ≠ .pan i) : (b.put f v).pan = b.pan := by
  cases f <;> first | rfl | exact absurd rfl (h _)
@[simp] theorem SharedBlock.put_pan (i : Chan) : (b.put (.pan i) v).pan = b.pan.set i (v.setWidth 8) := rfl
theorem SharedBlock.put_duty_of_ne {f : Field} (h : ∀ i, f ≠ .duty i) : (b.put f v).duty = b.duty := by
  cases f <;> first | rfl | exact absurd rfl (h _)
@[simp] theorem SharedBlock.put_duty (i : Chan) : (b.put (.duty i) v).duty = b.duty.set i (v.setWidth 8) := rfl
theorem SharedBlock.put_message_of_ne {f : Field} (h : f ≠ .message) : (b.put f v).message = b.message := by
  cases f <;> first | rfl | exact absurd rfl h
@[simp] theorem SharedBlock.put_message : (b.put .message v).message = v := rfl
theorem SharedBlock.put_sentCount_of_ne {f : Field} (h : f ≠ .sentCount) : (b.put f v).sentCount = b.sentCount := by
  cases f <;> first | rfl | exact absurd rfl h
@[simp] theorem SharedBlock.put_sentCount : (b.put .sentCount v).sentCount = v := rfl
theorem SharedBlock.put_recvCount_of_ne {f : Field} (h : f ≠ .recvCount) : (b.put f v).recvCount = b.recvCount := by
  cases f <;> first | rfl | exact absurd rfl h
@[simp] theorem SharedBlock.put_recvCount : (b.put .recvCount v).recvCount = v := rfl
theorem SharedBlock.put_syncCycle_of_ne {f : Field} (h : f ≠ .syncCycle) : (b.put f v).syncCycle = b.syncCycle := by
  cases f <;> first | rfl | exact absurd rfl h
@[simp] theorem SharedBlock.put_syncCycle : (b.put .syncCycle v).syncCycle = v := rfl
theorem SharedBlock.put_consumerCycle_of_ne {f : Field} (h : f ≠ .consumerCycle) : (b.put f v).consumerCycle = b.consumerCycle := by
  cases f <;> first | rfl | exact absurd rfl h
@[simp] theorem SharedBlock.put_consumerCycle : (b.put .consumerCycle v).consumerCycle = v := rfl
theorem SharedBlock.put_producerFlip_of_ne {f : Field} (h : f ≠ .producerFlip) : (b.put f v).producerFlip = b.producerFlip := by
  cases f <;> first | rfl | exact absurd rfl h
@[simp] theorem SharedBlock.put_producerFlip : (b.put .producerFlip v).producerFlip = v.getLsbD 0 := rfl
theorem SharedBlock.put_consumerFlip_of_ne {f : Field} (h : f ≠ .consumerFlip) : (b.put f v).consumerFlip = b.consumerFlip := by
  cases f <;> first | rfl | exact absurd rfl h
@[simp] theorem SharedBlock.put_consumerFlip : (b.put .consumerFlip v).consumerFlip = v.getLsbD 0 := rfl
theorem SharedBlock.put_flipInProgress_of_ne {f : Field} (h : f ≠ .flipInProgress) : (b.put f v).flipInProgress = b.flipInProgress := by
  cases f <;> first | rfl | exact absurd rfl h
@[simp] theorem SharedBlock.put_flipInProgress : (b.put .flipInProgress v).flipInProgress = v.getLsbD 0 := rfl
theorem SharedBlock.put_transferInProgress_of_ne {f : Field} (h : f ≠ .transferInProgress) : (b.put f v).transferInProgress = b.transferInProgress := by
  cases f <;> first | rfl | exact absurd rfl h
@[simp] theorem SharedBlock.put_transferInProgress : (b.put .transferInProgress v).transferInProgress = v.getLsbD 0 := rfl
theorem SharedBlock.put_sampleBufPtr_of_ne {f : Field} (h : f ≠ .sampleBufPtr) : (b.put f v).sampleBufPtr = b.sampleBufPtr := by
  cases f <;> first | rfl | exact absurd rfl h
@[simp] theorem SharedBlock.put_sampleBufPtr : (b.put .sampleBufPtr v).sampleBufPtr = v := rfl

/-! ### Layout (R64) -/

/-- Every field is in the list of fields. -/
theorem mem_allFields (f : Field) : f ∈ allFields := by
  cases f <;> first | decide | (rename_i i; cases i <;> decide)

/-- A byte of the block belongs to exactly the field whose range holds it. -/
theorem fieldCovering_eq (f : Field) {off : Nat} (h1 : f.offset ≤ off) (h2 : off < f.offset + f.size) :
    fieldCovering off = some f := by
  have key : ∀ g ∈ allFields, ∀ k < g.size, fieldCovering (g.offset + k) = some g := by decide
  have := key f (mem_allFields f) (off - f.offset) (by omega)
  rwa [Nat.add_sub_cancel' h1] at this

/-- A field that covers a byte has the byte in its range. -/
theorem fieldCovering_range {off : Nat} {f : Field} (h : fieldCovering off = some f) :
    f.offset ≤ off ∧ off < f.offset + f.size := by
  have := List.find?_some h
  simpa using this

/-- The byte image of a block after a write: only the bytes of the written field may differ (R62, R64). -/
theorem SharedBlock.byteAt_put_other {f : Field} {off : Nat} (h : ¬(f.offset ≤ off ∧ off < f.offset + f.size)) :
    (b.put f v).byteAt off = b.byteAt off := by
  unfold SharedBlock.byteAt
  cases hc : fieldCovering off with
  | none => rfl
  | some g =>
    have hg : g ≠ f := fun e => h (e ▸ fieldCovering_range hc)
    simp [SharedBlock.get_put_other b v hg]

/-- A whole access of the real block reads back what it wrote, at the width of the field it reaches (R13, R62). -/
theorem State.memRead_memWrite_real {s t : State} {addr n off : Nat}
    (hl : locate s.cfg addr = some (.realBlock, off)) (h : s.memWrite addr n v = some t) :
    ∃ f, fieldAt off n = some f ∧ t.memRead addr n = some ((v.setWidth (fieldBits f)).setWidth 32)
      ∧ t = { s with rsb := s.rsb.put f v } := by
  unfold State.memWrite at h
  rw [hl] at h
  cases hf : fieldAt off n with
  | none => simp [hf] at h
  | some f =>
    simp only [hf, Option.map_some, Option.some.injEq] at h
    subst h
    exact ⟨f, rfl, by simp [State.memRead, hl, hf, SharedBlock.get_put_same], rfl⟩

end Sys2Proof.Machine
end

