-- ==== Sys2Proof/Laws/Consumer.lean ====
section
/-! SUPPORT. The consumer's steps: everything one can do, said once, and what follows for an opportunity. -/

namespace Sys2Proof.Machine

/-- Everything one step of the consumer can do to the state (R262 to R267). -/
inductive ConsumerStep : State → State → Prop
  /-- A read, or a move whose condition does not hold. -/
  | stay (s : State) : ConsumerStep s s
  /-- The head word is removed. -/
  | dequeue (s : State) (w : Word) (rest : List Word) (hd : s.consumer.dequeued = none) (hq : s.queue = w :: rest) :
      ConsumerStep s { s with queue := rest, consumer := { s.consumer with dequeued := some w } }
  /-- The removed word, a form of R111, is counted. -/
  | count (s : State) (w : Word) (hd : s.consumer.dequeued = some w) (hf : IsForm w) :
      ConsumerStep s (countMessage s)
  /-- The target is recorded as the consumer's position. -/
  | acknowledge (s : State) (ha : s.consumer.acknowledging = false) (hs : s.rsb.syncCycle ≠ sentinel) :
      ConsumerStep s
        { s with
          rsb := s.rsb.put .consumerCycle s.rsb.syncCycle
          consumer := { s.consumer with acknowledging := true } }
  /-- The handshake cell goes back to SENTINEL. -/
  | finishAcknowledge (s : State) (ha : s.consumer.acknowledging = true) :
      ConsumerStep s
        { s with
          rsb := s.rsb.put .syncCycle sentinel
          consumer := { s.consumer with acknowledging := false } }
  /-- A write of a field of its own that carries no count: the position, the flip in progress, the transfer flag. -/
  | own (s : State) (f : Field) (v : Word)
      (hf : f = .consumerCycle ∨ f = .flipInProgress ∨ f = .transferInProgress) :
      ConsumerStep s { s with rsb := s.rsb.put f v }
  /-- A step of the flip end: one write of its own, and the stage moves on. -/
  | flip (s : State) (f : Field) (v : Word) (g : FlipStage)
      (hf : f = .consumerFlip ∨ f = .consumerCycle ∨ f = .flipInProgress) :
      ConsumerStep s { s with rsb := s.rsb.put f v, consumer := { s.consumer with flipStage := g } }

/-! ### Each step is one of these -/

theorem consumerDequeue_step (s : State) : ConsumerStep s (consumerDequeue s) := by
  unfold consumerDequeue
  split
  · next hd hq => exact .dequeue s _ _ hd hq
  · exact .stay s

theorem consumerFinishDequeue_next {s t : State} (h : consumerFinishDequeue s = .next t) : ConsumerStep s t := by
  unfold consumerFinishDequeue at h
  split at h
  · next w hd =>
    split at h
    · next hf => cases h; exact .count s w hd (by simp [IsForm, hf])
    · cases h
  · cases h; exact .stay s

theorem consumerAcknowledge_step (s : State) : ConsumerStep s (consumerAcknowledge s) := by
  unfold consumerAcknowledge
  split
  · next hc => exact .acknowledge s hc.1 hc.2
  · exact .stay s

theorem consumerFinishAcknowledge_step (s : State) : ConsumerStep s (consumerFinishAcknowledge s) := by
  unfold consumerFinishAcknowledge
  split
  · next hc => exact .finishAcknowledge s hc
  · exact .stay s

theorem consumerPosition_step (x : Word) (s : State) : ConsumerStep s (consumerPosition x s) :=
  .own s .consumerCycle x (.inl rfl)

theorem consumerFlipBegin_step (s : State) : ConsumerStep s (consumerFlipBegin s) := by
  unfold consumerFlipBegin
  split
  · exact .stay s
  · exact .own s .flipInProgress _ (.inr (.inl rfl))

theorem consumerFlipEnd_step (s : State) : ConsumerStep s (consumerFlipEnd s) := by
  unfold consumerFlipEnd
  split
  · exact .flip s .consumerFlip _ _ (.inl rfl)
  · exact .stay s

theorem consumerContinueFlip_step (s : State) : ConsumerStep s (consumerContinueFlip s) := by
  unfold consumerContinueFlip
  split
  · exact .stay s
  · exact .flip s .consumerCycle _ _ (.inr (.inl rfl))
  · exact .flip s .flipInProgress _ _ (.inr (.inr rfl))

theorem consumerTransfer_step (b : Bool) (s : State) : ConsumerStep s (consumerTransfer b s) :=
  .own s .transferInProgress _ (.inr (.inr rfl))

/-- A read by address changes nothing when it ends in a next state. -/
theorem consumerRead_next {a n : Nat} {s t : State} (h : consumerRead a n s = .next t) : t = s := by
  unfold consumerRead at h
  split at h <;> (try split at h) <;> simp_all

/-- A write to a whole field that ends in a next state is one of the steps. -/
theorem consumerPut_next {f : Field} {v : Word} {s t : State} (h : consumerPut f v s = .next t) :
    ConsumerStep s t := by
  cases f <;> simp only [consumerPut] at h <;> (try cases h) <;> repeat' split at h
  all_goals
    first
      | exact consumerFinishDequeue_next h
      | (cases h <;> first
          | exact .stay s
          | exact consumerFinishAcknowledge_step s
          | exact consumerContinueFlip_step s
          | exact consumerAcknowledge_step s
          | exact consumerPosition_step _ s
          | exact consumerFlipEnd_step s
          | exact consumerFlipBegin_step s
          | exact consumerTransfer_step _ s)

/-- A write by address that ends in a next state is one of the steps. -/
theorem consumerWrite_next {a n : Nat} {v : Word} {s t : State} (h : consumerWrite a n v s = .next t) :
    ConsumerStep s t := by
  unfold consumerWrite at h
  split at h
  · split at h
    · exact consumerPut_next h
    · cases h
  all_goals cases h

/-- One move is one of the steps. -/
theorem consumerMove_next {m : ConsumerMove} {s t : State} (h : consumerMove m s = .next t) : ConsumerStep s t := by
  cases m with
  | dequeue => cases h; exact consumerDequeue_step s
  | finishDequeue => exact consumerFinishDequeue_next h
  | acknowledge => cases h; exact consumerAcknowledge_step s
  | finishAcknowledge => cases h; exact consumerFinishAcknowledge_step s
  | position x => cases h; exact consumerPosition_step x s
  | flipBegin => cases h; exact consumerFlipBegin_step s
  | flipEnd => cases h; exact consumerFlipEnd_step s
  | continueFlip => cases h; exact consumerContinueFlip_step s
  | transfer b => cases h; exact consumerTransfer_step b s
  | read a n => cases consumerRead_next h; exact .stay s
  | write a n v => exact consumerWrite_next h

/-- A preorder on states that every step of the consumer, and the taking of an opportunity, respects. -/
structure ConsumerClosed (R : State → State → Prop) : Prop where
  refl  : ∀ s, R s s
  trans : ∀ {s t u}, R s t → R t u → R s u
  move  : ∀ {s t}, ConsumerStep s t → R s t
  taken : ∀ (s : State) (rest : List (List ConsumerMove)), R s { s with turns := rest }

/-- Several moves respect what each of them respects. -/
theorem ConsumerClosed.moves {R : State → State → Prop} (C : ConsumerClosed R) {ms : List ConsumerMove} :
    ∀ {s t : State}, consumerMoves ms s = .next t → R s t := by
  induction ms with
  | nil => intro s t h; cases h; exact C.refl _
  | cons m ms ih =>
    intro s t h
    simp only [consumerMoves] at h
    split at h
    · obtain ⟨u, h1, h2⟩ := andThen_eq_next.mp h
      exact C.trans (C.move (consumerMove_next h1)) (ih h2)
    · cases h

/-- An opportunity respects what each move respects. -/
theorem ConsumerClosed.turn {R : State → State → Prop} (C : ConsumerClosed R) {s t : State}
    (h : consumerTurn s = .next t) : R s t := by
  unfold consumerTurn at h
  split at h
  · cases h; exact C.refl _
  · exact C.trans (C.taken _ _) (C.moves h)

/-- With no opportunity listed, the consumer makes no move. -/
@[simp] theorem consumerTurn_silent {s : State} (h : s.turns = []) : consumerTurn s = .next s := by
  unfold consumerTurn; rw [h]

/-! ### The consumer leaves the producer's side alone (R50) -/

theorem consumerClosed_producerSide : ConsumerClosed fun s t => producerSide t = producerSide s where
  refl _ := rfl
  trans h1 h2 := h2.trans h1
  taken _ _ := rfl
  move h := by
    cases h with
    | stay | dequeue | count | acknowledge | finishAcknowledge => rfl
    | own f v hf => rcases hf with rfl | rfl | rfl <;> rfl
    | flip f v g hf => rcases hf with rfl | rfl | rfl <;> rfl

/-- An opportunity of the consumer changes nothing that P or H owns (R50). -/
theorem consumerTurn_producerSide {s t : State} (h : consumerTurn s = .next t) :
    producerSide t = producerSide s := consumerClosed_producerSide.turn h

end Sys2Proof.Machine
end

