-- ==== Sys2Proof/Laws/Messaging.lean ====
section
/-! SUPPORT. Sending a message: what it leaves alone whatever the consumer does, and its exact result while the consumer
makes no move. -/

namespace Sys2Proof.Machine

/-! ### Reading the frame back, field by field -/

section RecordSide

variable {s t : State} (h : recordSide t = recordSide s)
include h

theorem recordSide_cfg : t.cfg = s.cfg := congrArg (fun u => u.cfg) h
theorem recordSide_ch0 : t.ch0 = s.ch0 := congrArg (fun u => u.ch0) h
theorem recordSide_ch1 : t.ch1 = s.ch1 := congrArg (fun u => u.ch1) h
theorem recordSide_ch2 : t.ch2 = s.ch2 := congrArg (fun u => u.ch2) h
theorem recordSide_ch3 : t.ch3 = s.ch3 := congrArg (fun u => u.ch3) h
theorem recordSide_masterEnable : t.masterEnable = s.masterEnable := congrArg (fun u => u.masterEnable) h
theorem recordSide_soundEnabled : t.soundEnabled = s.soundEnabled := congrArg (fun u => u.soundEnabled) h
theorem recordSide_muted : t.muted = s.muted := congrArg (fun u => u.muted) h
theorem recordSide_target : t.target = s.target := congrArg (fun u => u.target) h
theorem recordSide_accurateSync : t.accurateSync = s.accurateSync := congrArg (fun u => u.accurateSync) h
theorem recordSide_masterVolume : t.masterVolume = s.masterVolume := congrArg (fun u => u.masterVolume) h
theorem recordSide_routing : t.routing = s.routing := congrArg (fun u => u.routing) h
theorem recordSide_nextEvent : t.nextEvent = s.nextEvent := congrArg (fun u => u.nextEvent) h
theorem recordSide_producerFlip : t.producerFlip = s.producerFlip := congrArg (fun u => u.producerFlip) h
theorem recordSide_sampleBuf : t.sampleBuf = s.sampleBuf := congrArg (fun u => u.sampleBuf) h
theorem recordSide_dsb : t.dsb = s.dsb := congrArg (fun u => u.dsb) h
theorem recordSide_started : t.started = s.started := congrArg (fun u => u.started) h
theorem recordSide_io : t.io = s.io := congrArg (fun u => u.io) h
theorem recordSide_stream : t.stream = s.stream := congrArg (fun u => u.stream) h
theorem recordSide_events : t.events.filter (fun e => !e.isDiag) = s.events.filter (fun e => !e.isDiag) :=
  congrArg (fun u => u.events) h
theorem recordSide_onMask : t.rsb.onMask = s.rsb.onMask := congrArg (fun u => u.rsb.onMask) h
theorem recordSide_rsb_masterVolume : t.rsb.masterVolume = s.rsb.masterVolume :=
  congrArg (fun u => u.rsb.masterVolume) h
theorem recordSide_rsb_routing : t.rsb.routing = s.rsb.routing := congrArg (fun u => u.rsb.routing) h
theorem recordSide_rsb_hyperSync : t.rsb.hyperSync = s.rsb.hyperSync := congrArg (fun u => u.rsb.hyperSync) h
theorem recordSide_rsb_vol : t.rsb.vol = s.rsb.vol := congrArg (fun u => u.rsb.vol) h
theorem recordSide_rsb_freq : t.rsb.freq = s.rsb.freq := congrArg (fun u => u.rsb.freq) h
theorem recordSide_rsb_pan : t.rsb.pan = s.rsb.pan := congrArg (fun u => u.rsb.pan) h
theorem recordSide_rsb_duty : t.rsb.duty = s.rsb.duty := congrArg (fun u => u.rsb.duty) h
theorem recordSide_rsb_producerFlip : t.rsb.producerFlip = s.rsb.producerFlip :=
  congrArg (fun u => u.rsb.producerFlip) h
theorem recordSide_rsb_sampleBufPtr : t.rsb.sampleBufPtr = s.rsb.sampleBufPtr :=
  congrArg (fun u => u.rsb.sampleBufPtr) h

theorem recordSide_voice (i : Chan) : t.voice i = s.voice i := by
  cases i <;> simp [State.voice, recordSide_ch0 h, recordSide_ch1 h, recordSide_ch2 h, recordSide_ch3 h]
theorem recordSide_env (i : Chan) : t.env i = s.env i := by
  cases i <;> simp [State.env, recordSide_ch0 h, recordSide_ch1 h, recordSide_ch3 h]
theorem recordSide_vol (i : Chan) : t.vol i = s.vol i := by
  cases i <;> simp [State.vol, recordSide_ch0 h, recordSide_ch1 h, recordSide_ch2 h, recordSide_ch3 h]
theorem recordSide_freq (i : Chan) : t.freq i = s.freq i := by
  cases i <;> simp [State.freq, recordSide_ch0 h, recordSide_ch1 h, recordSide_ch2 h, recordSide_ch3 h]
theorem recordSide_duty (i : Chan) : t.duty i = s.duty i := by
  cases i <;> simp [State.duty, recordSide_ch0 h, recordSide_ch1 h]
theorem recordSide_params (i : Chan) : t.params i = s.params i := by
  simp [State.params, recordSide_voice h, recordSide_vol h, recordSide_freq h, recordSide_duty h]

end RecordSide

/-- The record side sees no more than the producer's side. -/
theorem recordSide_of_producerSide {s t : State} (h : producerSide t = producerSide s) :
    recordSide t = recordSide s := by
  have he : t.events = s.events := congrArg (fun u => u.events) h
  simp only [recordSide, h, he]

/-! ### Relations that every part of a send respects -/

/-- A preorder on states that the consumer respects and that every write of a send respects: the diagnostics, the slot,
the count, the queue, the handshake cell, the hold, the draw. -/
structure MessageClosed (R : State → State → Prop) : Prop extends ConsumerClosed R where
  diagnostic : ∀ (s : State) (c : DiagCode), R s (diag c s)
  slot       : ∀ (s : State) (w : Word), R s { s with rsb := s.rsb.put .message w }
  sent       : ∀ s : State, R s { s with rsb := s.rsb.put .sentCount (s.rsb.sentCount + 1) }
  push       : ∀ (s : State) (w : Word), R s { s with queue := s.queue ++ [w] }
  cell       : ∀ (s : State) (w : Word), R s { s with rsb := s.rsb.put .syncCycle w }
  hold       : ∀ (s : State) (h : Option Held), R s { s with held := h }
  drawn      : ∀ s : State, R s (afterDraw s)

section Closed

variable {R : State → State → Prop} (C : MessageClosed R)
include C

theorem MessageClosed.enqueue {w : Word} {s t : State} (h : enqueue w s = .next t) : R s t := by
  unfold Machine.enqueue at h
  obtain ⟨a, h1, h⟩ := andThen_eq_next.mp h
  refine C.trans (C.turn h1) ?_
  split at h
  · cases h; exact C.diagnostic _ _
  obtain ⟨b, h2, h⟩ := andThen_eq_next.mp h
  refine C.trans (C.turn h2) ?_
  split at h
  · cases h; exact C.diagnostic _ _
  obtain ⟨c, h3, h⟩ := andThen_eq_next.mp h
  obtain ⟨d, h4, h⟩ := andThen_eq_next.mp h
  obtain ⟨e, h5, h⟩ := andThen_eq_next.mp h
  cases h
  exact C.trans (C.turn h3) (C.trans (C.slot c w) (C.trans (C.turn h4)
    (C.trans (C.sent d) (C.trans (C.turn h5) (C.push e w)))))

theorem MessageClosed.fallBack {w : Word} {s t : State} (h : fallBack w s = .next t) : R s t :=
  C.trans (C.diagnostic s .syncFallback) (C.enqueue h)

theorem MessageClosed.await {w : Word} {s t : State} (h : await w s = .next t) : R s t := by
  unfold Machine.await at h
  obtain ⟨a, h1, h⟩ := andThen_eq_next.mp h
  refine C.trans (C.turn h1) ?_
  split at h
  · exact C.trans (C.hold a none) (C.enqueue h)
  split at h
  · obtain ⟨b, h2, h⟩ := andThen_eq_next.mp h
    exact C.trans (C.hold a none) (C.trans (C.turn h2) (C.trans (C.cell b sentinel)
      (C.trans (C.diagnostic _ .syncAbort) (C.enqueue h))))
  · cases h; exact C.hold a _

theorem MessageClosed.syncSend {w : Word} {s t : State} (h : syncSend w s = .next t) : R s t := by
  unfold Machine.syncSend at h
  obtain ⟨a, h1, h⟩ := andThen_eq_next.mp h
  refine C.trans (C.trans (C.drawn s) (C.turn h1)) ?_
  split at h
  · exact C.fallBack h
  obtain ⟨b, h2, h⟩ := andThen_eq_next.mp h
  refine C.trans (C.turn h2) ?_
  split at h
  · exact C.fallBack h
  obtain ⟨c, h3, h⟩ := andThen_eq_next.mp h
  refine C.trans (C.turn h3) ?_
  split at h
  · exact C.fallBack h
  obtain ⟨d, h4, h⟩ := andThen_eq_next.mp h
  exact C.trans (C.turn h4) (C.trans (C.cell d _) (C.await h))

theorem MessageClosed.send {k : MsgKind} {c : MsgChan} {s t : State} (h : send k c s = .next t) : R s t := by
  unfold Machine.send at h
  split at h
  · cases h; exact C.refl s
  split at h
  · exact C.syncSend h
  · exact C.enqueue h

end Closed

/-! ### The frame of a send -/

theorem messageClosed_recordSide : MessageClosed fun s t => recordSide t = recordSide s where
  refl _ := rfl
  trans h1 h2 := h2.trans h1
  taken _ _ := rfl
  move h := recordSide_of_producerSide (consumerClosed_producerSide.move h)
  diagnostic s c := by
    simp only [recordSide, producerSide, diag, emit, List.filter_append]
    simp [HostEvent.isDiag]
  slot _ _ := rfl
  sent _ := rfl
  push _ _ := rfl
  cell _ _ := rfl
  hold _ _ := rfl
  drawn s := by unfold afterDraw; split <;> rfl

/-- A send changes no record, no global, no committed parameter and no output but a diagnostic, whatever the consumer
does meanwhile. -/
theorem send_recordSide {k : MsgKind} {c : MsgChan} {s t : State} (h : send k c s = .next t) :
    recordSide t = recordSide s := messageClosed_recordSide.send h

theorem enqueue_recordSide {w : Word} {s t : State} (h : enqueue w s = .next t) :
    recordSide t = recordSide s := messageClosed_recordSide.enqueue h

theorem await_recordSide {w : Word} {s t : State} (h : await w s = .next t) :
    recordSide t = recordSide s := messageClosed_recordSide.await h

/-- A property of the states that a send passes through: it holds after when it holds before. -/
theorem MessageClosed.of_invariant {P : State → Prop}
    (move : ∀ {s t}, ConsumerStep s t → P s → P t)
    (taken : ∀ (s : State) (rest : List (List ConsumerMove)), P s → P { s with turns := rest })
    (diagnostic : ∀ (s : State) (c : DiagCode), P s → P (diag c s))
    (slot : ∀ (s : State) (w : Word), P s → P { s with rsb := s.rsb.put .message w })
    (sent : ∀ s : State, P s → P { s with rsb := s.rsb.put .sentCount (s.rsb.sentCount + 1) })
    (push : ∀ (s : State) (w : Word), P s → P { s with queue := s.queue ++ [w] })
    (cell : ∀ (s : State) (w : Word), P s → P { s with rsb := s.rsb.put .syncCycle w })
    (hold : ∀ (s : State) (h : Option Held), P s → P { s with held := h })
    (drawn : ∀ s : State, P s → P (afterDraw s)) : MessageClosed fun s t => P s → P t where
  refl _ h := h
  trans h1 h2 h := h2 (h1 h)
  move := move
  taken := taken
  diagnostic := diagnostic
  slot := slot
  sent := sent
  push := push
  cell := cell
  hold := hold
  drawn := drawn

/-! ### The exact result while the consumer makes no move -/

/-- A block with the slot, the sent count and the handshake cell blanked. -/
def blankSent (b : SharedBlock) : SharedBlock := ((b.put .message 0).put .sentCount 0).put .syncCycle 0

/-- The state with only that blanked which P itself changes in sending a message: the queue, the slot, the sent count, the
handshake cell, the diagnostics, the hold and the draws. -/
def sentSide (s : State) : State :=
  { s with
    queue := [], rsb := blankSent s.rsb
    diagCount := ⟨0, 0, 0, 0⟩, held := none, draws := [], drawCount := 0
    events := s.events.filter fun e => !e.isDiag }

theorem recordSide_of_sentSide {s t : State} (h : sentSide t = sentSide s) : recordSide t = recordSide s := by
  have e : ∀ u, recordSide u = recordSide (sentSide u) := by
    intro u
    simp only [recordSide, producerSide, sentSide, List.filter_filter, Bool.and_self]
    rfl
  rw [e t, e s, h]

theorem sentSide_turns {s t : State} (h : sentSide t = sentSide s) : t.turns = s.turns :=
  congrArg (fun u => u.turns) h

theorem sentSide_consumer {s t : State} (h : sentSide t = sentSide s) : t.consumer = s.consumer :=
  congrArg (fun u => u.consumer) h

@[simp] theorem sentSide_diag (c : DiagCode) (s : State) : sentSide (diag c s) = sentSide s := by
  simp [sentSide, diag, emit, List.filter_append, HostEvent.isDiag]

@[simp] theorem sentSide_afterDraw (s : State) : sentSide (afterDraw s) = sentSide s := by
  unfold afterDraw; split <;> rfl

/-- The state after a word is admitted (R248). -/
def admitted (w : Word) (s : State) : State :=
  { s with
    rsb := (s.rsb.put .message w).put .sentCount (s.rsb.sentCount + 1)
    queue := s.queue ++ [w] }

/-- `Enqueue` while the consumer makes no move (R248). -/
theorem enqueue_silent (w : Word) {s : State} (h : s.turns = []) :
    enqueue w s = .next
      (if s.cfg.dropThreshold ≤ s.outstanding.toNat then diag .thresholdDrop s
       else if s.queue.length = s.cfg.queueCapacity then diag .queueFull s
       else admitted w s) := by
  unfold enqueue
  rw [consumerTurn_silent h, andThen_next]
  split
  · rfl
  rw [consumerTurn_silent h, andThen_next]
  split
  · rfl
  rw [consumerTurn_silent h, andThen_next, consumerTurn_silent (by exact h), andThen_next,
    consumerTurn_silent (by exact h), andThen_next]
  rfl

/-- What `Enqueue` does to the queue, the slot, the count and the diagnostics while the consumer makes no move. -/
theorem enqueue_silent_spec (w : Word) {s : State} (h : s.Silent) :
    ∃ t, enqueue w s = .next t ∧ sentSide t = sentSide s ∧ t.held = s.held
      ∧ AdmittedOrDropped w s t := by
  have e := enqueue_silent w h
  refine ⟨_, e, ?_, ?_, ?_, ?_⟩
  · split
    · exact sentSide_diag _ _
    · split
      · exact sentSide_diag _ _
      · rfl
  · split
    · rfl
    · split <;> rfl
  · rintro ⟨h1, h2⟩
    rw [if_neg (Nat.not_le.mpr h1), if_neg h2]
    exact ⟨rfl, rfl, rfl, rfl, rfl⟩
  · intro hn
    by_cases h1 : s.cfg.dropThreshold ≤ s.outstanding.toNat
    · simp only [Dropped, if_pos h1]
      exact ⟨rfl, rfl, rfl, rfl, rfl⟩
    · have h2 : s.queue.length = s.cfg.queueCapacity :=
        Decidable.not_not.mp fun h2 => hn ⟨Nat.not_le.mp h1, h2⟩
      simp only [Dropped, if_neg h1, if_pos h2]
      exact ⟨rfl, rfl, rfl, rfl, rfl⟩

/-- One look of the wait while the consumer makes no move (R253 to R255). -/
theorem await_silent (w : Word) {s : State} (h : s.turns = []) :
    await w s =
      if s.rsb.syncCycle = sentinel then enqueue w { s with held := none }
      else if s.rsb.transferInProgress then
        enqueue w (diag .syncAbort { s with held := none, rsb := s.rsb.put .syncCycle sentinel })
      else .next { s with held := some ⟨w, []⟩ } := by
  unfold await
  rw [consumerTurn_silent h, andThen_next]
  split
  · rfl
  · split
    · rw [consumerTurn_silent (by exact h), andThen_next]
    · rfl

theorem await_silent_next (w : Word) {s : State} (h : s.Silent) :
    ∃ t, await w s = .next t ∧ sentSide t = sentSide s := by
  have h' : s.turns = [] := h
  rw [await_silent w h']
  split
  · obtain ⟨t, e, ht, _⟩ := enqueue_silent_spec w (s := { s with held := none }) h
    exact ⟨t, e, ht⟩
  · split
    · obtain ⟨t, e, ht, _⟩ := enqueue_silent_spec w
        (s := diag .syncAbort { s with held := none, rsb := s.rsb.put .syncCycle sentinel }) h
      exact ⟨t, e, ht.trans (sentSide_diag _ _)⟩
    · exact ⟨_, rfl, rfl⟩

@[simp] theorem afterDraw_silent {s : State} : (afterDraw s).turns = s.turns := by
  unfold afterDraw; split <;> rfl

theorem afterDraw_rsb' {s : State} : (afterDraw s).rsb = s.rsb := by unfold afterDraw; split <;> rfl

/-- `SyncSend` while the consumer makes no move (R250): the four tests, then the target. -/
theorem syncSend_silent (w : Word) {s : State} (h : s.turns = []) :
    syncSend w s =
      if (targetCycle s.draw ≤ s.rsb.consumerCycle ∨ targetCycle s.draw = sentinel)
          ∨ s.rsb.flipInProgress = true ∨ outOfPhase s.rsb = true then fallBack w (afterDraw s)
      else await w { afterDraw s with rsb := s.rsb.put .syncCycle (targetCycle s.draw) } := by
  have h' : (afterDraw s).turns = [] := by simpa using h
  unfold syncSend
  rw [consumerTurn_silent h', andThen_next, afterDraw_rsb']
  by_cases c1 : targetCycle s.draw ≤ s.rsb.consumerCycle ∨ targetCycle s.draw = sentinel
  · rw [if_pos c1, if_pos (.inl c1)]
  rw [if_neg c1, consumerTurn_silent h', andThen_next, afterDraw_rsb']
  by_cases c2 : s.rsb.flipInProgress = true
  · rw [if_pos c2, if_pos (.inr (.inl c2))]
  rw [if_neg c2, consumerTurn_silent h', andThen_next, afterDraw_rsb']
  by_cases c3 : outOfPhase s.rsb = true
  · rw [if_pos c3, if_pos (.inr (.inr c3))]
  rw [if_neg c3, consumerTurn_silent h', andThen_next, afterDraw_rsb',
    if_neg (by rintro (c | c | c) <;> contradiction)]

theorem syncSend_silent_next (w : Word) {s : State} (h : s.Silent) :
    ∃ t, syncSend w s = .next t ∧ sentSide t = sentSide s := by
  have h' : s.turns = [] := h
  rw [syncSend_silent _ h']
  split
  · obtain ⟨t, e, ht, _⟩ := enqueue_silent_spec w
      (s := diag .syncFallback (afterDraw s)) (by show State.turns _ = []; simpa using h')
    exact ⟨t, e, ht.trans ((sentSide_diag _ _).trans (sentSide_afterDraw s))⟩
  · obtain ⟨t, e, ht⟩ := await_silent_next w
      (s := { afterDraw s with rsb := s.rsb.put .syncCycle (targetCycle s.draw) })
      (by show State.turns _ = []; simpa using h')
    refine ⟨t, e, ht.trans ?_⟩
    unfold afterDraw
    split <;> rfl

/-- A send ends while the consumer makes no move: with its message handled, or with P held. It does what R245, R246,
R248 and R249 say, and only the cycle-accurate mode can leave P held. -/
theorem send_silent (k : MsgKind) (c : MsgChan) {s : State} (h : s.Silent) :
    ∃ t, send k c s = .next t ∧ sentSide t = sentSide s ∧ Sends (messageWord k c) s t
      ∧ (s.NeverHolds → t.held = s.held) := by
  by_cases g : s.soundEnabled = false ∨ s.muted = true
  · refine ⟨s, by simp [send, g], rfl, ⟨?_, ?_, ?_, ?_⟩, fun _ => rfl⟩
    · rintro ⟨⟨h1, h2⟩, _⟩; rcases g with g | g <;> simp_all
    · rintro ⟨⟨h1, h2⟩, _⟩; rcases g with g | g <;> simp_all
    · rintro ⟨h1, h2⟩; rcases g with g | g <;> simp_all
    · intro _; exact ⟨rfl, rfl, rfl, rfl, rfl⟩
  have aud : s.Audible := by
    constructor
    · cases hs : s.soundEnabled <;> simp_all
    · cases hs : s.muted <;> simp_all
  cases hm : s.accurateSync with
  | false =>
    obtain ⟨t, e, ht, hh, ha, hd⟩ := enqueue_silent_spec (messageWord k c) h
    have e' : send k c s = .next t := by rw [send, if_neg g, hm]; exact e
    exact ⟨t, e', ht, ⟨fun _ => ha, fun _ => hd, fun _ hx => by simp [hm] at hx, fun n => absurd aud n⟩, fun _ => hh⟩
  | true =>
    obtain ⟨t, e, ht⟩ := syncSend_silent_next (messageWord k c) h
    have e' : send k c s = .next t := by rw [send, if_neg g, hm]; exact e
    refine ⟨t, e', ht, ⟨?_, ?_, fun _ _ => ⟨s, rfl, (recordSide_of_sentSide ht).symm, e⟩, fun n => absurd aud n⟩,
      fun n => ?_⟩
    · rintro ⟨_, hb⟩; simp [hm] at hb
    · rintro ⟨_, hb⟩; simp [hm] at hb
    · have := n aud; simp [hm] at this

/-! ### A send sees the protocol's side only -/

section ProtocolSide

variable {s t : State} (h : protocolSide t = protocolSide s)
include h

theorem protocolSide_cfg : t.cfg = s.cfg := congrArg (fun u => u.cfg) h
theorem protocolSide_soundEnabled : t.soundEnabled = s.soundEnabled := congrArg (fun u => u.soundEnabled) h
theorem protocolSide_muted : t.muted = s.muted := congrArg (fun u => u.muted) h
theorem protocolSide_accurateSync : t.accurateSync = s.accurateSync := congrArg (fun u => u.accurateSync) h
theorem protocolSide_queue : t.queue = s.queue := congrArg (fun u => u.queue) h
theorem protocolSide_diagCount : t.diagCount = s.diagCount := congrArg (fun u => u.diagCount) h
theorem protocolSide_held : t.held = s.held := congrArg (fun u => u.held) h
theorem protocolSide_message : t.rsb.message = s.rsb.message := congrArg (fun u => u.rsb.message) h
theorem protocolSide_sentCount : t.rsb.sentCount = s.rsb.sentCount := congrArg (fun u => u.rsb.sentCount) h
theorem protocolSide_recvCount : t.rsb.recvCount = s.rsb.recvCount := congrArg (fun u => u.rsb.recvCount) h

/-- `Sends` sees only the protocol's side of the state before. -/
theorem Sends.congr {w : Word} {u : State} (hs : Sends w t u) : Sends w s u := by
  simp only [Sends, State.BestEffort, State.Audible, State.Admits, State.outstanding, Admitted, Dropped,
    SendsNothing, protocolSide_cfg h, protocolSide_soundEnabled h, protocolSide_muted h, protocolSide_accurateSync h,
    protocolSide_queue h, protocolSide_diagCount h, protocolSide_held h, protocolSide_message h,
    protocolSide_sentCount h, protocolSide_recvCount h, h] at hs ⊢
  exact hs

end ProtocolSide

end Sys2Proof.Machine
end

