-- ==== Sys2Proof/Laws/Bytes.lean ====
section
/-! SUPPORT. Reading one byte of memory after a commit and after a send: only the bytes of the written fields may differ. -/

namespace Sys2Proof.Machine

/-- A byte of memory depends on the configuration, the two blocks and the Sample Buffer only. -/
theorem memByte_congr {s t : State} (hc : t.cfg = s.cfg) (hr : t.rsb = s.rsb) (hd : t.dsb = s.dsb)
    (hb : t.sampleBuf = s.sampleBuf) (a : Nat) : t.memByte a = s.memByte a := by
  simp only [State.memByte, hc, hr, hd, hb]

/-- Where `locate` answers a block, the offset is counted from that block's base. -/
theorem locate_real {cfg : Config} {a off : Nat} (h : locate cfg a = some (.realBlock, off)) :
    cfg.rsbAddr.toNat ≤ a ∧ off = a - cfg.rsbAddr.toNat := by
  unfold locate at h
  split at h
  · next hc => simp only [Option.some.injEq, Prod.mk.injEq] at h; exact ⟨hc.1, h.2.symm⟩
  · split at h
    · simp at h
    · split at h <;> simp at h

theorem locate_dummy {cfg : Config} {a off : Nat} (h : locate cfg a = some (.dummyBlock, off)) :
    cfg.dsbAddr.toNat ≤ a ∧ off = a - cfg.dsbAddr.toNat := by
  unfold locate at h
  split at h
  · simp at h
  · split at h
    · next hc => simp only [Option.some.injEq, Prod.mk.injEq] at h; exact ⟨hc.1, h.2.symm⟩
    · split at h <;> simp at h

/-- A byte outside a field's bytes is outside the field's offsets. -/
theorem offset_not_covered {base : Word} {f : Field} {a : Nat} (hb : base.toNat ≤ a) (h : ¬inField base f a) :
    ¬(f.offset ≤ a - base.toNat ∧ a - base.toNat < f.offset + f.size) := by
  unfold inField at h; omega

/-- Every byte outside the written field of the real block reads as before. -/
theorem memByte_put_rsb {s : State} {f : Field} {v : Word} {a : Nat} (h : ¬inField s.cfg.rsbAddr f a) :
    State.memByte { s with rsb := s.rsb.put f v } a = s.memByte a := by
  simp only [State.memByte]
  split
  · next off hl =>
    obtain ⟨h1, rfl⟩ := locate_real hl
    exact SharedBlock.byteAt_put_other _ _ (offset_not_covered h1 h)
  all_goals rfl

theorem memByte_put_dsb {s : State} {f : Field} {v : Word} {a : Nat} (h : ¬inField s.cfg.dsbAddr f a) :
    State.memByte { s with dsb := s.dsb.put f v } a = s.memByte a := by
  simp only [State.memByte]
  split
  · rfl
  · next off hl =>
    obtain ⟨h1, rfl⟩ := locate_dummy hl
    exact SharedBlock.byteAt_put_other _ _ (offset_not_covered h1 h)
  all_goals rfl

/-- A commit changes no byte outside its field of the block P writes, and none at all while P is disabled (R288). -/
theorem commit_memByte {s : State} {f : Field} {v : Word} {a : Nat}
    (h : s.soundEnabled = true → ¬inField s.blockBase f a) : (commit f v s).memByte a = s.memByte a := by
  cases he : s.soundEnabled with
  | false => simp [commit, he]
  | true =>
    have h := h he
    cases ht : s.target with
    | real =>
      have e : commit f v s = { s with rsb := s.rsb.put f v } := by simp [commit, he, ht]
      rw [e]
      exact memByte_put_rsb (by simpa [State.blockBase, ht] using h)
    | dummy =>
      have e : commit f v s = { s with dsb := s.dsb.put f v } := by simp [commit, he, ht]
      rw [e]
      exact memByte_put_dsb (by simpa [State.blockBase, ht] using h)

/-- What P itself changes in sending a message stays inside the slot, the sent count and the handshake cell. -/
theorem sentSide_memByte {s t : State} (h : sentSide t = sentSide s) {a : Nat} (ha : ¬inProtocolField s a) :
    t.memByte a = s.memByte a := by
  have hc : t.cfg = s.cfg := congrArg (fun u => u.cfg) h
  have hd : t.dsb = s.dsb := congrArg (fun u => u.dsb) h
  have hb : t.sampleBuf = s.sampleBuf := congrArg (fun u => u.sampleBuf) h
  have hr : blankSent t.rsb = blankSent s.rsb := congrArg State.rsb (a₁ := sentSide t) (a₂ := sentSide s) h
  have key : ∀ b : SharedBlock, ∀ off, a - s.cfg.rsbAddr.toNat = off → s.cfg.rsbAddr.toNat ≤ a →
      (blankSent b).byteAt off = b.byteAt off := by
    rintro b off rfl hle
    have h3 : ∀ f, f = .message ∨ f = .sentCount ∨ f = .syncCycle → ¬inField s.cfg.rsbAddr f a := by
      rintro f (rfl | rfl | rfl) hf
      · exact ha (.inl hf)
      · exact ha (.inr (.inl hf))
      · exact ha (.inr (.inr hf))
    show (((b.put .message 0).put .sentCount 0).put .syncCycle 0).byteAt _ = _
    rw [SharedBlock.byteAt_put_other _ _ (offset_not_covered hle (h3 _ (.inr (.inr rfl)))),
      SharedBlock.byteAt_put_other _ _ (offset_not_covered hle (h3 _ (.inr (.inl rfl)))),
      SharedBlock.byteAt_put_other _ _ (offset_not_covered hle (h3 _ (.inl rfl)))]
  simp only [State.memByte, hc, hd, hb]
  split
  · next off hl =>
    obtain ⟨h1, h2⟩ := locate_real hl
    rw [← key t.rsb off h2.symm h1, ← key s.rsb off h2.symm h1, hr]
  all_goals rfl

/-- The bytes of memory outside the protocol fields and the consumer's own fields, and the configuration. -/
theorem messageClosed_memByte : MessageClosed fun s t =>
    t.cfg = s.cfg ∧ ∀ a, ¬inProtocolField s a → ¬inConsumerField s a → t.memByte a = s.memByte a where
  refl s := ⟨rfl, fun _ _ _ => rfl⟩
  trans := by
    rintro s t u ⟨c1, h1⟩ ⟨c2, h2⟩
    refine ⟨c2.trans c1, fun a ha hb => (h2 a ?_ ?_).trans (h1 a ha hb)⟩
    · simpa only [inProtocolField, c1] using ha
    · simpa only [inConsumerField, c1] using hb
  taken s rest := ⟨rfl, fun _ _ _ => rfl⟩
  move h := by
    cases h with
    | stay => exact ⟨rfl, fun _ _ _ => rfl⟩
    | dequeue => exact ⟨rfl, fun _ _ _ => rfl⟩
    | count => exact ⟨rfl, fun a _ hb => memByte_put_rsb fun hf => hb (.inl hf)⟩
    | acknowledge => exact ⟨rfl, fun a _ hb => memByte_put_rsb fun hf => hb (.inr (.inl hf))⟩
    | finishAcknowledge => exact ⟨rfl, fun a ha _ => memByte_put_rsb fun hf => ha (.inr (.inr hf))⟩
    | own f v hf =>
      refine ⟨rfl, fun a _ hb => memByte_put_rsb fun hi => hb ?_⟩
      rcases hf with rfl | rfl | rfl
      · exact .inr (.inl hi)
      · exact .inr (.inr (.inr (.inl hi)))
      · exact .inr (.inr (.inr (.inr hi)))
    | flip f v g hf =>
      refine ⟨rfl, fun a _ hb => memByte_put_rsb fun hi => hb ?_⟩
      rcases hf with rfl | rfl | rfl
      · exact .inr (.inr (.inl hi))
      · exact .inr (.inl hi)
      · exact .inr (.inr (.inr (.inl hi)))
  diagnostic s c := ⟨rfl, fun _ _ _ => rfl⟩
  slot s w := ⟨rfl, fun a ha _ => memByte_put_rsb fun hf => ha (.inl hf)⟩
  sent s := ⟨rfl, fun a ha _ => memByte_put_rsb fun hf => ha (.inr (.inl hf))⟩
  push s w := ⟨rfl, fun _ _ _ => rfl⟩
  cell s w := ⟨rfl, fun a ha _ => memByte_put_rsb fun hf => ha (.inr (.inr hf))⟩
  hold s h := ⟨rfl, fun _ _ _ => rfl⟩
  drawn s := by unfold afterDraw; split <;> exact ⟨rfl, fun _ _ _ => rfl⟩

/-- A send changes no byte outside the protocol fields and, while the consumer may move, the consumer's own fields. -/
theorem send_memByte {k : MsgKind} {c : MsgChan} {s t : State} (h : send k c s = .next t) {a : Nat}
    (ha : ¬inProtocolField s a) (hb : s.Silent ∨ ¬inConsumerField s a) : t.memByte a = s.memByte a := by
  rcases hb with hs | hb
  · obtain ⟨u, e, hu, _⟩ := send_silent k c hs
    obtain rfl : u = t := by rw [h] at e; cases e; rfl
    exact sentSide_memByte hu ha
  · exact (messageClosed_memByte.send h).2 a ha hb

end Sys2Proof.Machine
end

