-- ==== Sys2Proof/Laws/Channel.lean ====
section
/-! SUPPORT. A channel write up to its message (R121): what the records, the block and the next-event minimum hold
afterwards, and everything it leaves alone. -/

namespace Sys2Proof.Machine

/-! ### The part of the state that channel writes and ADVANCE leave alone -/

/-- A block with the channel parameters blanked that channel writes and ADVANCE commit. -/
def blankParams (b : SharedBlock) : SharedBlock :=
  { b with onMask := 0, vol := ⟨0, 0, 0, 0⟩, freq := ⟨0, 0, 0, 0⟩, duty := ⟨0, 0, 0, 0⟩ }

/-- The state with only that blanked which a channel write or ADVANCE changes before its message: the four records, the
next-event minimum, the committed channel parameters of both blocks, the deactivation events. -/
def restSide (s : State) : State :=
  { s with
    ch0 := ⟨Voice.reset, Envelope.reset, Sweep.reset, 0, 0, 0⟩
    ch1 := ⟨Voice.reset, Envelope.reset, 0, 0, 0⟩
    ch2 := ⟨Voice.reset, 0, 0, 0, false⟩
    ch3 := ⟨Voice.reset, Envelope.reset, 0, 0⟩
    nextEvent := 0, rsb := blankParams s.rsb, dsb := blankParams s.dsb
    events := s.events.filter HostEvent.isDiag }

/-- The field is a channel parameter. -/
def Field.isParam : Field → Bool
  | .onMask | .vol _ | .freq _ | .duty _ => true
  | _ => false

theorem blankParams_put (b : SharedBlock) {f : Field} (v : Word) (h : f.isParam = true) :
    blankParams (b.put f v) = blankParams b := by
  cases f <;> first | rfl | cases h

theorem restSide_commit (s : State) {f : Field} (v : Word) (h : f.isParam = true) :
    restSide (commit f v s) = restSide s := by
  unfold commit
  split
  · split <;> simp [restSide, blankParams_put _ _ h]
  · rfl

@[simp] theorem restSide_commitOnBit (s : State) (i : Chan) (b : Bool) :
    restSide (commitOnBit i b s) = restSide s := restSide_commit _ _ rfl
@[simp] theorem restSide_setVoice (s : State) (i : Chan) (v : Voice) : restSide (setVoice i v s) = restSide s := by
  cases i <;> rfl
@[simp] theorem restSide_setEnv (s : State) (i : Chan) (e : Envelope) : restSide (setEnv i e s) = restSide s := by
  cases i <;> rfl
@[simp] theorem restSide_setOn (s : State) (i : Chan) (b : Bool) : restSide (setOn i b s) = restSide s :=
  restSide_setVoice s i _
@[simp] theorem restSide_reloadLength (s : State) (i : Chan) : restSide (reloadLength i s) = restSide s :=
  restSide_setVoice s i _
@[simp] theorem restSide_reportNext (s : State) (n : Int) : restSide (reportNext n s) = restSide s := rfl
@[simp] theorem restSide_signalDeactivate (s : State) (i : Chan) : restSide (signalDeactivate i s) = restSide s := by
  simp [restSide, signalDeactivate, emit, List.filter_append, HostEvent.isDiag]
@[simp] theorem restSide_triggerEnvelope (s : State) (i : Chan) : restSide (triggerEnvelope i s) = restSide s := by
  cases i <;> rfl
@[simp] theorem restSide_triggerSweep (s : State) (i : Chan) : restSide (triggerSweep i s) = restSide s := by
  cases i <;> rfl
@[simp] theorem restSide_triggerLocal (s : State) (i : Chan) : restSide (triggerLocal i s) = restSide s := by
  simp [triggerLocal]

section RestSide

variable {s t : State} (h : restSide t = restSide s)
include h

theorem restSide_cfg : t.cfg = s.cfg := congrArg (fun u => u.cfg) h
theorem restSide_masterEnable : t.masterEnable = s.masterEnable := congrArg (fun u => u.masterEnable) h
theorem restSide_soundEnabled : t.soundEnabled = s.soundEnabled := congrArg (fun u => u.soundEnabled) h
theorem restSide_muted : t.muted = s.muted := congrArg (fun u => u.muted) h
theorem restSide_target : t.target = s.target := congrArg (fun u => u.target) h
theorem restSide_accurateSync : t.accurateSync = s.accurateSync := congrArg (fun u => u.accurateSync) h
theorem restSide_masterVolume : t.masterVolume = s.masterVolume := congrArg (fun u => u.masterVolume) h
theorem restSide_routing : t.routing = s.routing := congrArg (fun u => u.routing) h
theorem restSide_producerFlip : t.producerFlip = s.producerFlip := congrArg (fun u => u.producerFlip) h
theorem restSide_sampleBuf : t.sampleBuf = s.sampleBuf := congrArg (fun u => u.sampleBuf) h
theorem restSide_diagCount : t.diagCount = s.diagCount := congrArg (fun u => u.diagCount) h
theorem restSide_queue : t.queue = s.queue := congrArg (fun u => u.queue) h
theorem restSide_started : t.started = s.started := congrArg (fun u => u.started) h
theorem restSide_held : t.held = s.held := congrArg (fun u => u.held) h
theorem restSide_consumer : t.consumer = s.consumer := congrArg (fun u => u.consumer) h
theorem restSide_io : t.io = s.io := congrArg (fun u => u.io) h
theorem restSide_stream : t.stream = s.stream := congrArg (fun u => u.stream) h
theorem restSide_turns : t.turns = s.turns := congrArg (fun u => u.turns) h
theorem restSide_draws : t.draws = s.draws := congrArg (fun u => u.draws) h
theorem restSide_drawCount : t.drawCount = s.drawCount := congrArg (fun u => u.drawCount) h
theorem restSide_rsb : blankParams t.rsb = blankParams s.rsb :=
  congrArg State.rsb (a₁ := restSide t) (a₂ := restSide s) h
theorem restSide_message : t.rsb.message = s.rsb.message :=
  congrArg SharedBlock.message (a₁ := blankParams t.rsb) (a₂ := blankParams s.rsb) (restSide_rsb h)
theorem restSide_sentCount : t.rsb.sentCount = s.rsb.sentCount :=
  congrArg SharedBlock.sentCount (a₁ := blankParams t.rsb) (a₂ := blankParams s.rsb) (restSide_rsb h)
theorem restSide_recvCount : t.rsb.recvCount = s.rsb.recvCount :=
  congrArg SharedBlock.recvCount (a₁ := blankParams t.rsb) (a₂ := blankParams s.rsb) (restSide_rsb h)
theorem restSide_syncCycle : t.rsb.syncCycle = s.rsb.syncCycle :=
  congrArg SharedBlock.syncCycle (a₁ := blankParams t.rsb) (a₂ := blankParams s.rsb) (restSide_rsb h)

theorem restSide_blockBase : t.blockBase = s.blockBase := by
  simp [State.blockBase, restSide_target h, restSide_cfg h]
theorem restSide_silent (hs : s.Silent) : t.Silent := (restSide_turns h).trans hs
theorem restSide_modes : ModesKept s t :=
  ⟨restSide_cfg h, restSide_masterEnable h, restSide_soundEnabled h, restSide_muted h, restSide_target h,
    restSide_accurateSync h, restSide_started h, restSide_sampleBuf h, restSide_io h, restSide_stream h⟩
theorem restSide_bytes : BytesKept s t :=
  ⟨restSide_masterVolume h, restSide_routing h, restSide_producerFlip h⟩
theorem restSide_protocol {a : Nat} : inProtocolField t a ↔ inProtocolField s a := by
  simp [inProtocolField, restSide_cfg h]
theorem restSide_consumerField {a : Nat} : inConsumerField t a ↔ inConsumerField s a := by
  simp [inConsumerField, restSide_cfg h]

theorem restSide_protocolSide : protocolSide t = protocolSide s := by
  have e : ∀ u, protocolSide u = protocolSide (restSide u) := by
    intro u
    simp only [protocolSide, restSide, List.filter_filter, Bool.and_self]
    rfl
  rw [e t, e s, h]

/-- A send from the updated state is a send from the state before the update. -/
theorem restSide_sends {w : Word} {u : State} (hs : Sends w t u) : Sends w s u :=
  Sends.congr (restSide_protocolSide h) hs

theorem restSide_sendsNothing : SendsNothing s t :=
  ⟨restSide_queue h, restSide_message h, restSide_sentCount h, restSide_diagCount h, restSide_held h⟩

end RestSide

/-! ### The register bodies -/

/-- The bodies of the 18 channel registers, each with its channel (R122 to R129, R150, R152, R160). -/
inductive RegisterBody : Chan → (State → State × Bool) → Prop
  | sweep1 (d : Byte) : RegisterBody .c0 (bodySweep1 d)
  | lenduty1 (d : Byte) : RegisterBody .c0 (bodyLenduty1 d)
  | env1 (d : Byte) : RegisterBody .c0 (bodyEnv1 d)
  | freqlo1 (d : Byte) : RegisterBody .c0 (bodyFreqlo1 d)
  | freqhi1 (d : Byte) : RegisterBody .c0 (bodyFreqhi1 d)
  | lenduty2 (d : Byte) : RegisterBody .c1 (bodyLenduty2 d)
  | env2 (d : Byte) : RegisterBody .c1 (bodyEnv2 d)
  | freqlo2 (d : Byte) : RegisterBody .c1 (bodyFreqlo2 d)
  | freqhi2 (d : Byte) : RegisterBody .c1 (bodyFreqhi2 d)
  | dacen3 (d : Byte) : RegisterBody .c2 (bodyDacen3 d)
  | len3 (d : Byte) : RegisterBody .c2 (bodyLen3 d)
  | level3 (d : Byte) : RegisterBody .c2 (bodyLevel3 d)
  | freqlo3 (d : Byte) : RegisterBody .c2 (bodyFreqlo3 d)
  | freqhi3 (d : Byte) : RegisterBody .c2 (bodyFreqhi3 d)
  | len4 (d : Byte) : RegisterBody .c3 (bodyLen4 d)
  | env4 (d : Byte) : RegisterBody .c3 (bodyEnv4 d)
  | poly4 (d : Byte) : RegisterBody .c3 (bodyPoly4 d)
  | trig4 (d : Byte) : RegisterBody .c3 (bodyTrig4 d)

/-- A body changes its channel's record only. -/
theorem RegisterBody.kept {c : Chan} {body : State → State × Bool} (h : RegisterBody c body) (s : State) :
    restSide (body s).1 = restSide s ∧ (body s).1.rsb = s.rsb ∧ (body s).1.dsb = s.dsb
      ∧ (body s).1.nextEvent = s.nextEvent ∧ (body s).1.events = s.events ∧ OtherChannelsKept c s (body s).1 := by
  cases h <;> exact ⟨rfl, rfl, rfl, rfl, rfl, fun _ => by first | rfl | contradiction,
    fun _ => by first | rfl | contradiction, fun _ => by first | rfl | contradiction,
    fun _ => by first | rfl | contradiction⟩

/-- Of the bodies, only the wave DAC's can switch the channel off, and none switches it on. -/
theorem RegisterBody.on {c : Chan} {body : State → State × Bool} (h : RegisterBody c body) (s : State) :
    ((body s).1.voice c).on = true → (s.voice c).on = true := by
  cases h <;> simp_all [bodySweep1, bodyLenduty1, bodyLenduty2, bodyEnv1, bodyEnv2, bodyEnv4, bodyFreqlo1, bodyFreqlo2,
    bodyFreqlo3, bodyFreqhi1, bodyFreqhi2, bodyFreqhi3, bodyDacen3, bodyLen3, bodyLevel3, bodyLen4, bodyPoly4,
    bodyTrig4, State.voice, reloadLength, setVoice]

/-! ### The trigger -/

theorem triggerLocal_kept (c : Chan) (s : State) :
    restSide (triggerLocal c s) = restSide s ∧ (triggerLocal c s).rsb = s.rsb ∧ (triggerLocal c s).dsb = s.dsb
      ∧ (triggerLocal c s).nextEvent = s.nextEvent ∧ (triggerLocal c s).events = s.events
      ∧ OtherChannelsKept c s (triggerLocal c s) := by
  cases c <;> exact ⟨rfl, rfl, rfl, rfl, rfl, fun _ => by first | rfl | contradiction,
    fun _ => by first | rfl | contradiction, fun _ => by first | rfl | contradiction,
    fun _ => by first | rfl | contradiction⟩

/-- A trigger switches its channel on (R144) and reloads its length counter (R141). -/
theorem triggerLocal_voice (c : Chan) (s : State) :
    (triggerLocal c s).voice c = { s.voice c with on := true, lenCounter := lenReload s.cfg c (s.len c) } := by
  cases c <;> rfl

/-! ### The commits and the reports -/

section Reports

variable (c : Chan) (s : State)

theorem commitParams_kept : restSide (commitParams c s) = restSide s := by
  cases c <;> simp only [commitParams] <;> repeat' (first | rfl | (rw [restSide_commit _ _ rfl]))

theorem commitOn_kept (wasOn trig : Bool) : restSide (commitOn c wasOn trig s) = restSide s := by
  unfold commitOn
  simp only []
  split <;> split <;> simp

/-- The reports change the next-event minimum and nothing else (R121, R212). -/
theorem reportTimers_eq :
    reportTimers c s = { s with nextEvent := (runningCounters c s).foldl min s.nextEvent } := by
  unfold reportTimers runningCounters
  cases hon : (s.voice c).on with
  | false => rfl
  | true =>
    cases hl : (s.voice c).lenEnable <;> cases c <;>
      simp only [reportSweep, reportEnvelope, reportLength, hl, State.env, if_true, Bool.false_eq_true, if_false,
        reduceCtorEq, false_and, true_and, List.nil_append, List.append_nil] <;>
      (repeat' split) <;> first | rfl | contradiction

theorem reportTimers_kept : restSide (reportTimers c s) = restSide s := by
  rw [reportTimers_eq]; rfl

end Reports

/-! ### The whole update -/

/-- The block P writes after a commit (R288). -/
theorem commit_sb (f : Field) (v : Word) (s : State) :
    (commit f v s).sb = if s.soundEnabled then s.sb.put f v else s.sb := by
  unfold commit
  split
  · unfold State.sb; cases s.target <;> rfl
  · rfl

/-- The record values that the update leaves: the body's, or the trigger's over them. -/
def localUpdate (c : Chan) (r : State × Bool) : State := if r.2 then triggerLocal c r.1 else r.1

/-- The update changes the records as the body and the trigger do; the commits and the reports leave them (R121). -/
theorem channelUpdate_records (c : Chan) (on : Bool) (r : State × Bool) :
    (channelUpdate c on r).ch0 = (localUpdate c r).ch0 ∧ (channelUpdate c on r).ch1 = (localUpdate c r).ch1
      ∧ (channelUpdate c on r).ch2 = (localUpdate c r).ch2 ∧ (channelUpdate c on r).ch3 = (localUpdate c r).ch3 := by
  have hp : ∀ s : State, (commitParams c s).ch0 = s.ch0 ∧ (commitParams c s).ch1 = s.ch1
      ∧ (commitParams c s).ch2 = s.ch2 ∧ (commitParams c s).ch3 = s.ch3 := by
    intro s; cases c <;> simp [commitParams]
  have ho : ∀ (s : State) (b : Bool), (commitOn c on b s).ch0 = s.ch0 ∧ (commitOn c on b s).ch1 = s.ch1
      ∧ (commitOn c on b s).ch2 = s.ch2 ∧ (commitOn c on b s).ch3 = s.ch3 := by
    intro s b; unfold commitOn; simp only []; split <;> split <;> simp
  unfold channelUpdate
  rw [reportTimers_eq]
  obtain ⟨o0, o1, o2, o3⟩ := ho (commitParams c (localUpdate c r)) r.2
  obtain ⟨p0, p1, p2, p3⟩ := hp (localUpdate c r)
  exact ⟨o0.trans p0, o1.trans p1, o2.trans p2, o3.trans p3⟩

theorem channelUpdate_voice (c : Chan) (on : Bool) (r : State × Bool) (j : Chan) :
    (channelUpdate c on r).voice j = (localUpdate c r).voice j := by
  obtain ⟨h0, h1, h2, h3⟩ := channelUpdate_records c on r
  cases j <;> simp [State.voice, h0, h1, h2, h3]

theorem channelUpdate_env (c : Chan) (on : Bool) (r : State × Bool) (j : Chan) :
    (channelUpdate c on r).env j = (localUpdate c r).env j := by
  obtain ⟨h0, h1, h2, h3⟩ := channelUpdate_records c on r
  cases j <;> simp [State.env, h0, h1, h3]

theorem channelUpdate_params (c : Chan) (on : Bool) (r : State × Bool) (j : Chan) :
    (channelUpdate c on r).params j = (localUpdate c r).params j := by
  obtain ⟨h0, h1, h2, h3⟩ := channelUpdate_records c on r
  cases j <;> simp [State.params, State.voice, State.vol, State.freq, State.duty, h0, h1, h2, h3]

/-- The next-event minimum after the update (R121, R212). -/
theorem channelUpdate_nextEvent {c : Chan} {body : State → State × Bool} (h : RegisterBody c body) (on : Bool)
    (s : State) :
    (channelUpdate c on (body s)).nextEvent
      = (runningCounters c (channelUpdate c on (body s))).foldl min s.nextEvent := by
  have hr : runningCounters c (channelUpdate c on (body s))
      = runningCounters c (commitOn c on (body s).2 (commitParams c (localUpdate c (body s)))) := by
    unfold channelUpdate
    rw [reportTimers_eq]
    rfl
  rw [hr]
  unfold channelUpdate
  rw [reportTimers_eq]
  show List.foldl min (State.nextEvent _) _ = List.foldl min _ _
  congr 1
  have h1 : ∀ u : State, (commitParams c u).nextEvent = u.nextEvent := by
    intro u; cases c <;> simp [commitParams]
  have h2 : ∀ (u : State) (b : Bool), (commitOn c on b u).nextEvent = u.nextEvent := by
    intro u b; unfold commitOn; simp only []; split <;> split <;> simp
  rw [h2, h1]
  split
  · rw [(triggerLocal_kept c _).2.2.2.1]; exact (h.kept s).2.2.2.1
  · exact (h.kept s).2.2.2.1

/-- The update leaves everything alone that is no record, no committed channel parameter and no report. -/
theorem channelUpdate_rest {c : Chan} {body : State → State × Bool} (h : RegisterBody c body) (on : Bool) (s : State) :
    restSide (channelUpdate c on (body s)) = restSide s := by
  unfold channelUpdate
  rw [reportTimers_kept, commitOn_kept, commitParams_kept]
  split
  · rw [restSide_triggerLocal]; exact (h.kept s).1
  · exact (h.kept s).1

/-- The update leaves the other channels' records alone. -/
theorem channelUpdate_others {c : Chan} {body : State → State × Bool} (h : RegisterBody c body) (on : Bool)
    (s : State) : OtherChannelsKept c s (channelUpdate c on (body s)) := by
  obtain ⟨h0, h1, h2, h3⟩ := channelUpdate_records c on (body s)
  have hl : OtherChannelsKept c s (localUpdate c (body s)) := by
    obtain ⟨b0, b1, b2, b3⟩ := (h.kept s).2.2.2.2.2
    unfold localUpdate
    split
    · obtain ⟨t0, t1, t2, t3⟩ := (triggerLocal_kept c (body s).1).2.2.2.2.2
      exact ⟨fun n => (t0 n).trans (b0 n), fun n => (t1 n).trans (b1 n), fun n => (t2 n).trans (b2 n),
        fun n => (t3 n).trans (b3 n)⟩
    · exact ⟨b0, b1, b2, b3⟩
  obtain ⟨l0, l1, l2, l3⟩ := hl
  exact ⟨fun n => h0.trans (l0 n), fun n => h1.trans (l1 n), fun n => h2.trans (l2 n), fun n => h3.trans (l3 n)⟩

/-- The update puts out no event. -/
theorem channelUpdate_events {c : Chan} {body : State → State × Bool} (h : RegisterBody c body) (on : Bool)
    (s : State) : (channelUpdate c on (body s)).events = s.events := by
  have h1 : ∀ u : State, (commitParams c u).events = u.events := by
    intro u; cases c <;> simp [commitParams]
  have h2 : ∀ (u : State) (b : Bool), (commitOn c on b u).events = u.events := by
    intro u b; unfold commitOn; simp only []; split <;> split <;> simp
  unfold channelUpdate
  rw [reportTimers_eq]
  show State.events (commitOn _ _ _ _) = _
  rw [h2, h1]
  split
  · rw [(triggerLocal_kept c _).2.2.2.2.1]; exact (h.kept s).2.2.2.2.1
  · exact (h.kept s).2.2.2.2.1

/-- The block P writes after the update: the parameters of the channel and its on-bit (R121). -/
theorem channelUpdate_sb {c : Chan} {body : State → State × Bool} (h : RegisterBody c body) (on : Bool) (s : State) :
    (channelUpdate c on (body s)).sb =
      if s.soundEnabled then
        let u := localUpdate c (body s)
        let b := (s.sb.put (.vol c) ((u.vol c).setWidth 32)).put (.freq c) ((u.freq c).setWidth 32)
        let b := if c = .c0 ∨ c = .c1 then b.put (.duty c) ((u.duty c).setWidth 32) else b
        let b := if on && !(u.voice c).on then b.put .onMask ((withMaskBit b.onMask c false).setWidth 32) else b
        if (body s).2 then b.put .onMask ((withMaskBit b.onMask c true).setWidth 32) else b
      else s.sb := by
  have hs : (localUpdate c (body s)).sb = s.sb ∧ (localUpdate c (body s)).soundEnabled = s.soundEnabled := by
    obtain ⟨k1, k2, k3, _⟩ := h.kept s
    obtain ⟨t1, t2, t3, _⟩ := triggerLocal_kept c (body s).1
    unfold localUpdate
    split
    · refine ⟨?_, (restSide_soundEnabled t1).trans (restSide_soundEnabled k1)⟩
      simp only [State.sb, t2, t3, k2, k3, restSide_target t1, restSide_target k1]
    · exact ⟨by simp only [State.sb, k2, k3, restSide_target k1], restSide_soundEnabled k1⟩
  obtain ⟨e1, e2⟩ := hs
  have hr : ∀ u : State, (reportTimers c u).sb = u.sb := by intro u; rw [reportTimers_eq]; rfl
  unfold channelUpdate
  rw [hr]
  change (commitOn c on (body s).2 (commitParams c (localUpdate c (body s)))).sb = _
  generalize hu : localUpdate c (body s) = u at *
  cases hse : s.soundEnabled with
  | false =>
    rw [hse] at e2
    have hp : (commitParams c u).sb = u.sb ∧ (commitParams c u).soundEnabled = false := by
      cases c <;> simp [commitParams, commit_sb, e2]
    unfold commitOn
    simp only []
    split <;> split <;> simp [commitOnBit, commit_sb, hp.1, hp.2, e1]
  | true =>
    rw [hse] at e2
    have hp : (commitParams c u).soundEnabled = true ∧ (commitParams c u).voice c = u.voice c := by
      cases c <;> simp [commitParams, e2]
    unfold commitOn
    simp only [hp.2]
    cases c <;> split <;> split <;>
      simp [commitOnBit, commit_sb, commitParams, e1, e2, withMaskBit]

/-- The update changes no byte of memory outside the fields it commits. -/
theorem channelUpdate_memByte {c : Chan} {body : State → State × Bool} (h : RegisterBody c body) (on : Bool)
    (s : State) {a : Nat} (ha : s.soundEnabled = true → ∀ f ∈ committedFields c, ¬inField s.blockBase f a) :
    (channelUpdate c on (body s)).memByte a = s.memByte a := by
  obtain ⟨k1, k2, k3, _⟩ := h.kept s
  have hl : restSide (localUpdate c (body s)) = restSide s
      ∧ (localUpdate c (body s)).memByte a = s.memByte a := by
    obtain ⟨t1, t2, t3, _⟩ := triggerLocal_kept c (body s).1
    unfold localUpdate
    split
    · exact ⟨t1.trans k1, memByte_congr (restSide_cfg (t1.trans k1)) (t2.trans k2) (t3.trans k3)
        (restSide_sampleBuf (t1.trans k1)) a⟩
    · exact ⟨k1, memByte_congr (restSide_cfg k1) k2 k3 (restSide_sampleBuf k1) a⟩
  have hc : ∀ (u : State) (f : Field) (v : Word), f ∈ committedFields c → restSide u = restSide s →
      (commit f v u).memByte a = u.memByte a := by
    intro u f v hf hu
    refine commit_memByte fun he => ?_
    rw [restSide_blockBase hu]
    exact ha (by rw [← restSide_soundEnabled hu]; exact he) f hf
  have hr : ∀ u : State, (reportTimers c u).memByte a = u.memByte a := by
    intro u; rw [reportTimers_eq]; rfl
  have hp : ∀ u : State, restSide u = restSide s → (commitParams c u).memByte a = u.memByte a := by
    intro u hu
    have r1 : ∀ (u : State) f v, f.isParam = true → restSide u = restSide s → restSide (commit f v u) = restSide s :=
      fun u f v hf hu => (restSide_commit u v hf).trans hu
    cases c <;> simp only [commitParams] <;>
      (first
        | (rw [hc _ _ _ (by decide) (r1 _ _ _ rfl (r1 _ _ _ rfl hu)), hc _ _ _ (by decide) (r1 _ _ _ rfl hu),
            hc _ _ _ (by decide) hu])
        | (rw [hc _ _ _ (by decide) (r1 _ _ _ rfl hu), hc _ _ _ (by decide) hu]))
  have hm : Field.onMask ∈ committedFields c := by cases c <;> decide
  have ho : ∀ (u : State) (b : Bool), restSide u = restSide s → (commitOn c on b u).memByte a = u.memByte a := by
    intro u b hu
    unfold commitOn
    simp only []
    split
    · split
      · rw [commitOnBit, hc _ _ _ hm (by rw [restSide_commitOnBit, hu]), commitOnBit, hc _ _ _ hm hu]
      · rw [commitOnBit, hc _ _ _ hm hu]
    · split
      · rw [commitOnBit, hc _ _ _ hm hu]
      · rfl
  unfold channelUpdate
  rw [hr]
  change (commitOn c on (body s).2 (commitParams c (localUpdate c (body s)))).memByte a = _
  rw [ho _ _ ((commitParams_kept c _).trans hl.1), hp _ hl.1, hl.2]

/-! ### The write with its message -/

/-- Everything a channel write can do, whatever the consumer does meanwhile (R121). -/
theorem channelWrite_next {c : Chan} {body : State → State × Bool} {s t : State}
    (h : channelWrite c body s = .next t) :
    recordSide t = recordSide (channelUpdate c (s.voice c).on (body s)) := by
  unfold channelWrite at h
  simp only [] at h
  split at h
  · exact send_recordSide h
  · split at h
    · exact send_recordSide h
    · cases h; rfl

/-- The result of a channel write while the consumer makes no move (R121). -/
theorem channelWrite_silent {c : Chan} {body : State → State × Bool} (hb : RegisterBody c body) {s : State}
    (h : s.Silent) :
    ∃ t, channelWrite c body s = .next t
      ∧ sentSide t = sentSide (channelUpdate c (s.voice c).on (body s))
      ∧ (if (body s).2 then Sends (messageWord .start (.one c)) s t
         else if (localUpdate c (body s)).params c ≠ s.params c then Sends (messageWord .update (.one c)) s t
         else SendsNothing s t)
      ∧ (s.NeverHolds → t.held = s.held) := by
  have hu := channelUpdate_rest hb (s.voice c).on s
  have hs := restSide_silent hu h
  have hn : s.NeverHolds → (channelUpdate c (s.voice c).on (body s)).NeverHolds := by
    simp only [State.NeverHolds, State.Audible, restSide_soundEnabled hu, restSide_muted hu,
      restSide_accurateSync hu]
    exact id
  unfold channelWrite
  simp only []
  rw [channelUpdate_params]
  split
  · obtain ⟨t, e, h1, h2, h3⟩ := send_silent .start (.one c) hs
    exact ⟨t, e, h1, restSide_sends hu h2, fun n => (h3 (hn n)).trans (restSide_held hu)⟩
  · split
    · obtain ⟨t, e, h1, h2, h3⟩ := send_silent .update (.one c) hs
      exact ⟨t, e, h1, restSide_sends hu h2, fun n => (h3 (hn n)).trans (restSide_held hu)⟩
    · exact ⟨_, rfl, rfl, restSide_sendsNothing hu, fun _ => restSide_held hu⟩

/-- A channel write changes no byte of memory outside the fields it commits, the protocol fields and, while the consumer
may move, the consumer's own. -/
theorem channelWrite_memory {c : Chan} {body : State → State × Bool} (hb : RegisterBody c body) {s t : State}
    (h : channelWrite c body s = .next t) : MemoryKeptOutside (committedFields c) s t := by
  have hu := channelUpdate_rest hb (s.voice c).on s
  intro a h1 h2 h3
  have key : ∀ k m, send k m (channelUpdate c (s.voice c).on (body s)) = .next t →
      t.memByte a = s.memByte a := by
    intro k m e
    rw [send_memByte e (by rwa [restSide_protocol hu])
      (h3.imp (restSide_silent hu) (by rw [restSide_consumerField hu]; exact id))]
    exact channelUpdate_memByte hb _ s h1
  unfold channelWrite at h
  simp only [] at h
  split at h
  · exact key _ _ h
  · split at h
    · exact key _ _ h
    · cases h; exact channelUpdate_memByte hb _ s h1

end Sys2Proof.Machine
end

