-- ==== Sys2Proof/Laws/Memory.lean ====
section
/-! SUPPORT. The sparse byte memory: read after write, and that a write keeps the canonical form. -/

namespace Sys2Proof.Machine

/-- A byte below every listed address reads as unlisted. -/
theorem Memory.read_of_all_gt {m : Memory} {a : Nat} (h : m.all (fun x => decide (a < x.1)) = true) :
    Memory.read m a = 0#8 := by
  induction m with
  | nil => rfl
  | cons c rest ih =>
    simp only [List.all_cons, Bool.and_eq_true, decide_eq_true_eq] at h
    simp only [Memory.read, if_neg (Nat.ne_of_gt h.1)]
    exact ih h.2

/-- Every address of a written memory is the written one or was listed. -/
theorem Memory.mem_write {m : Memory} {a : Nat} {v : Byte} {c : Host.Cell} (h : c ∈ Memory.write m a v) :
    c.1 = a ∨ c ∈ m := by
  induction m with
  | nil =>
    simp only [Memory.write] at h
    split at h <;> simp_all
  | cons d rest ih =>
    simp only [Memory.write] at h
    split at h
    · split at h
      · exact .inr h
      · rcases List.mem_cons.mp h with rfl | h
        · exact .inl rfl
        · exact .inr h
    · split at h
      · split at h
        · exact .inr (List.mem_cons_of_mem _ h)
        · rcases List.mem_cons.mp h with rfl | h
          · exact .inl rfl
          · exact .inr (List.mem_cons_of_mem _ h)
      · rcases List.mem_cons.mp h with rfl | h
        · exact .inr List.mem_cons_self
        · rcases ih h with h | h
          · exact .inl h
          · exact .inr (List.mem_cons_of_mem _ h)

/-- A write keeps the canonical form. -/
theorem Memory.write_wf {m : Memory} (a : Nat) (v : Byte) (h : m.wf = true) :
    (Memory.write m a v).wf = true := by
  induction m with
  | nil =>
    simp only [Memory.write]
    split
    · rfl
    · next hv => simp [Memory.wf, hv]
  | cons c rest ih =>
    simp only [Memory.wf, Bool.and_eq_true, bne_iff_ne, List.all_eq_true, decide_eq_true_eq] at h
    obtain ⟨⟨hc, hall⟩, hrest⟩ := h
    simp only [Memory.write]
    split
    · next hlt =>
      split
      · simp only [Memory.wf, Bool.and_eq_true, bne_iff_ne, List.all_eq_true, decide_eq_true_eq]
        exact ⟨⟨hc, hall⟩, hrest⟩
      · next hv =>
        simp only [Memory.wf, Bool.and_eq_true, bne_iff_ne, List.all_eq_true, decide_eq_true_eq,
          List.mem_cons]
        refine ⟨⟨hv, ?_⟩, ⟨hc, hall⟩, hrest⟩
        rintro x (rfl | hx)
        · exact hlt
        · exact Nat.lt_trans hlt (hall x hx)
    · next hge =>
      split
      · next heq =>
        split
        · exact hrest
        · next hv =>
          simp only [Memory.wf, Bool.and_eq_true, bne_iff_ne, List.all_eq_true, decide_eq_true_eq]
          exact ⟨⟨hv, fun x hx => heq ▸ hall x hx⟩, hrest⟩
      · next hne =>
        simp only [Memory.wf, Bool.and_eq_true, bne_iff_ne, List.all_eq_true, decide_eq_true_eq]
        refine ⟨⟨hc, fun x hx => ?_⟩, ih hrest⟩
        rcases Memory.mem_write hx with h | h
        · omega
        · exact hall x h

/-- The byte just written. -/
theorem Memory.read_write_same {m : Memory} (a : Nat) (v : Byte) (h : m.wf = true) :
    Memory.read (Memory.write m a v) a = v := by
  induction m with
  | nil => simp only [Memory.write]; split <;> simp_all [Memory.read]
  | cons c rest ih =>
    simp only [Memory.wf, Bool.and_eq_true, bne_iff_ne] at h
    obtain ⟨⟨hc, hall⟩, hrest⟩ := h
    simp only [Memory.write]
    split
    · next hlt =>
      split
      · next hv =>
        rw [hv]
        apply Memory.read_of_all_gt
        simp only [List.all_cons, Bool.and_eq_true, decide_eq_true_eq, List.all_eq_true] at hall ⊢
        exact ⟨hlt, fun x hx => Nat.lt_trans hlt (hall x hx)⟩
      · simp [Memory.read]
    · split
      · next heq =>
        split
        · next hv => rw [hv, ← heq]; exact Memory.read_of_all_gt hall
        · simp [Memory.read]
      · next hne => simp only [Memory.read, if_neg hne]; exact ih hrest

/-- Every other byte is as before. -/
theorem Memory.read_write_other {m : Memory} {a b : Nat} (v : Byte) (h : m.wf = true) (hb : b ≠ a) :
    Memory.read (Memory.write m a v) b = Memory.read m b := by
  induction m with
  | nil => simp only [Memory.write]; split <;> simp [Memory.read, Ne.symm hb]
  | cons c rest ih =>
    simp only [Memory.wf, Bool.and_eq_true, bne_iff_ne] at h
    obtain ⟨⟨hc, hall⟩, hrest⟩ := h
    simp only [Memory.write]
    split
    · split
      · rfl
      · simp [Memory.read, Ne.symm hb]
    · split
      · next heq =>
        have hcb : c.1 ≠ b := fun e => hb (e ▸ heq)
        split <;> simp [Memory.read, hcb, Ne.symm hb]
      · simp only [Memory.read]
        split
        · rfl
        · exact ih hrest

/-- The addresses of a written memory stay in a range that the write respects. -/
theorem Memory.write_range {m : Memory} {a lo hi : Nat} (v : Byte)
    (h : ∀ c ∈ m, lo ≤ c.1 ∧ c.1 < hi) (ha : lo ≤ a ∧ a < hi) :
    ∀ c ∈ Memory.write m a v, lo ≤ c.1 ∧ c.1 < hi := fun c hc => by
  rcases Memory.mem_write hc with e | hm
  · rw [e]; exact ha
  · exact h c hm

/-- Several bytes written keep the canonical form. -/
theorem Memory.writeBytes_wf {m : Memory} (a v n : Nat) (h : m.wf = true) : (m.writeBytes a v n).wf = true := by
  induction n generalizing m a v with
  | zero => exact h
  | succ n ih => exact ih _ _ (Memory.write_wf a _ h)

/-- Several bytes written change no byte below the first one. -/
theorem Memory.read_writeBytes_below {m : Memory} (a v n b : Nat) (h : m.wf = true) (hb : b < a) :
    (m.writeBytes a v n).read b = m.read b := by
  induction n generalizing m a v with
  | zero => rfl
  | succ n ih =>
    exact (ih _ _ (Memory.write_wf a _ h) (by omega)).trans (Memory.read_write_other _ h (by omega))

/-- The bytes read back are the bytes written (R61). -/
theorem Memory.readBytes_writeBytes {m : Memory} (a v n : Nat) (h : m.wf = true) :
    (m.writeBytes a v n).readBytes a n = v % 256 ^ n := by
  induction n generalizing m a v with
  | zero => simp [Memory.readBytes, Nat.mod_one]
  | succ n ih =>
    simp only [Memory.writeBytes, Memory.readBytes]
    rw [ih _ _ (Memory.write_wf a _ h), Memory.read_writeBytes_below _ _ _ _ (Memory.write_wf a _ h) (by omega),
      Memory.read_write_same _ _ h, BitVec.toNat_ofNat, (Nat.pow_succ' : 256 ^ (n + 1) = _)]
    exact (Nat.mod_mul (a := 256) (b := 256 ^ n) (x := v)).symm

end Sys2Proof.Machine
end

