-- ==== Sys2Proof/Laws/PerInstr.lean ====
section
/-! SUPPORT. The family `TableRow`: the bits that spec/opcode_table.json fixes for an instruction are those of its word. -/

namespace Sys2Proof.Laws

/-- The fixed bits of an instruction's row of spec/opcode_table.json (R91, R110): the number of their lowest bit, and their
value; they reach up to bit 31. The row of every other message word (R112) fixes none. -/
def TableRow.fixed : Instr → Nat × Nat
  | .writeSweep1 _ => (8, 0x10)
  | .writeLenduty1 _ => (8, 0x11)
  | .writeEnv1 _ => (8, 0x12)
  | .writeFreqlo1 _ => (8, 0x13)
  | .writeFreqhi1 _ => (8, 0x14)
  | .writeLenduty2 _ => (8, 0x16)
  | .writeEnv2 _ => (8, 0x17)
  | .writeFreqlo2 _ => (8, 0x18)
  | .writeFreqhi2 _ => (8, 0x19)
  | .writeDacen3 _ => (8, 0x1A)
  | .writeLen3 _ => (8, 0x1B)
  | .writeLevel3 _ => (8, 0x1C)
  | .writeFreqlo3 _ => (8, 0x1D)
  | .writeFreqhi3 _ => (8, 0x1E)
  | .writeLen4 _ => (8, 0x20)
  | .writeEnv4 _ => (8, 0x21)
  | .writePoly4 _ => (8, 0x22)
  | .writeTrig4 _ => (8, 0x23)
  | .writeMastervol _ => (8, 0x24)
  | .writeRouting _ => (8, 0x25)
  | .writeMasteren _ => (8, 0x26)
  | .writeWave _ _ => (12, 0x3)
  | .writeUnmapped15 _ => (8, 0x15)
  | .writeUnmapped1F _ => (8, 0x1F)
  | .writeUnmapped27 _ => (8, 0x27)
  | .writeUnmapped28 _ => (8, 0x28)
  | .writeUnmapped29 _ => (8, 0x29)
  | .writeUnmapped2A _ => (8, 0x2A)
  | .writeUnmapped2B _ => (8, 0x2B)
  | .writeUnmapped2C _ => (8, 0x2C)
  | .writeUnmapped2D _ => (8, 0x2D)
  | .writeUnmapped2E _ => (8, 0x2E)
  | .writeUnmapped2F _ => (8, 0x2F)
  | .writeOut0 _ _ => (12, 0x0)
  | .writeOut4 _ _ => (12, 0x4)
  | .writeOut5 _ _ => (12, 0x5)
  | .writeOut6 _ _ => (12, 0x6)
  | .writeOut7 _ _ => (12, 0x7)
  | .writeOut8 _ _ => (12, 0x8)
  | .writeOut9 _ _ => (12, 0x9)
  | .writeOutA _ _ => (12, 0xA)
  | .writeOutB _ _ => (12, 0xB)
  | .writeOutC _ _ => (12, 0xC)
  | .writeOutD _ _ => (12, 0xD)
  | .writeOutE _ _ => (12, 0xE)
  | .writeOutF _ _ => (12, 0xF)
  | .advance _ => (28, 0x1)
  | .getnext => (0, 0x20000000)
  | .vblank => (0, 0x30000000)
  | .init => (0, 0x40000000)
  | .refresh => (0, 0x50000000)
  | .mute => (0, 0x60000000)
  | .unmute => (0, 0x70000000)
  | .setenabled _ => (1, 0x40000000)
  | .setsync _ => (1, 0x48000000)
  | .refusedA _ => (28, 0xA)
  | .refusedB _ => (28, 0xB)
  | .refusedC _ => (28, 0xC)
  | .refusedD _ => (28, 0xD)
  | .refusedE _ => (28, 0xE)
  | .refusedF _ => (28, 0xF)
  | .msgStart _ => (2, 0x0)
  | .msgUpdate _ => (2, 0x4)
  | .msgUpdateAll => (0, 0x1F)
  | .msgMasterVolumeAll => (0, 0x2F)
  | .msgMuteAll => (0, 0x3F)
  | .msgUnmuteAll => (0, 0x4F)
  | .msgReserved _ => (32, 0)

/-- The word of the instruction has its row's fixed bits. -/
def TableRow.Statement (i : Instr) : Prop :=
  (encode i).toNat / 2 ^ (TableRow.fixed i).1 = (TableRow.fixed i).2

theorem writeWord_toNat {hi lo : Nat} (d : Byte) (hh : hi < 16) (hl : lo < 16) :
    (writeWord hi lo d).toNat = hi * 2 ^ 12 + lo * 2 ^ 8 + d.toNat := by
  have := d.isLt
  simp only [writeWord, BitVec.toNat_ofNat]
  omega

theorem operationWord_toNat {op : Nat} (p : BitVec 28) (h : op < 16) :
    (operationWord op p).toNat = op * 2 ^ 28 + p.toNat := by
  have := p.isLt
  simp only [operationWord, BitVec.toNat_ofNat]
  omega

/-- A `WRITE` to one register fixes bits 31:8. -/
theorem writeWord_address {hi lo : Nat} (d : Byte) (hh : hi < 16) (hl : lo < 16) :
    (writeWord hi lo d).toNat / 2 ^ 8 = hi * 16 + lo := by
  have := d.isLt
  rw [writeWord_toNat d hh hl]
  omega

/-- A `WRITE` to a row of sixteen addresses fixes bits 31:12. -/
theorem writeWord_page {hi : Nat} (lo : BitVec 4) (d : Byte) (hh : hi < 16) :
    (writeWord hi lo.toNat d).toNat / 2 ^ 12 = hi := by
  have := d.isLt
  have := lo.isLt
  rw [writeWord_toNat d hh lo.isLt]
  omega

/-- An operation with a payload fixes bits 31:28. -/
theorem operationWord_code {op : Nat} (p : BitVec 28) (h : op < 16) : (operationWord op p).toNat / 2 ^ 28 = op := by
  have := p.isLt
  rw [operationWord_toNat p h]
  omega

theorem TableRow.writeSweep1 (data : Byte) : TableRow.Statement (.writeSweep1 data) :=
  writeWord_address data (by decide) (by decide)

theorem TableRow.writeLenduty1 (data : Byte) : TableRow.Statement (.writeLenduty1 data) :=
  writeWord_address data (by decide) (by decide)

theorem TableRow.writeEnv1 (data : Byte) : TableRow.Statement (.writeEnv1 data) :=
  writeWord_address data (by decide) (by decide)

theorem TableRow.writeFreqlo1 (data : Byte) : TableRow.Statement (.writeFreqlo1 data) :=
  writeWord_address data (by decide) (by decide)

theorem TableRow.writeFreqhi1 (data : Byte) : TableRow.Statement (.writeFreqhi1 data) :=
  writeWord_address data (by decide) (by decide)

theorem TableRow.writeLenduty2 (data : Byte) : TableRow.Statement (.writeLenduty2 data) :=
  writeWord_address data (by decide) (by decide)

theorem TableRow.writeEnv2 (data : Byte) : TableRow.Statement (.writeEnv2 data) :=
  writeWord_address data (by decide) (by decide)

theorem TableRow.writeFreqlo2 (data : Byte) : TableRow.Statement (.writeFreqlo2 data) :=
  writeWord_address data (by decide) (by decide)

theorem TableRow.writeFreqhi2 (data : Byte) : TableRow.Statement (.writeFreqhi2 data) :=
  writeWord_address data (by decide) (by decide)

theorem TableRow.writeDacen3 (data : Byte) : TableRow.Statement (.writeDacen3 data) :=
  writeWord_address data (by decide) (by decide)

theorem TableRow.writeLen3 (data : Byte) : TableRow.Statement (.writeLen3 data) :=
  writeWord_address data (by decide) (by decide)

theorem TableRow.writeLevel3 (data : Byte) : TableRow.Statement (.writeLevel3 data) :=
  writeWord_address data (by decide) (by decide)

theorem TableRow.writeFreqlo3 (data : Byte) : TableRow.Statement (.writeFreqlo3 data) :=
  writeWord_address data (by decide) (by decide)

theorem TableRow.writeFreqhi3 (data : Byte) : TableRow.Statement (.writeFreqhi3 data) :=
  writeWord_address data (by decide) (by decide)

theorem TableRow.writeLen4 (data : Byte) : TableRow.Statement (.writeLen4 data) :=
  writeWord_address data (by decide) (by decide)

theorem TableRow.writeEnv4 (data : Byte) : TableRow.Statement (.writeEnv4 data) :=
  writeWord_address data (by decide) (by decide)

theorem TableRow.writePoly4 (data : Byte) : TableRow.Statement (.writePoly4 data) :=
  writeWord_address data (by decide) (by decide)

theorem TableRow.writeTrig4 (data : Byte) : TableRow.Statement (.writeTrig4 data) :=
  writeWord_address data (by decide) (by decide)

theorem TableRow.writeMastervol (data : Byte) : TableRow.Statement (.writeMastervol data) :=
  writeWord_address data (by decide) (by decide)

theorem TableRow.writeRouting (data : Byte) : TableRow.Statement (.writeRouting data) :=
  writeWord_address data (by decide) (by decide)

theorem TableRow.writeMasteren (data : Byte) : TableRow.Statement (.writeMasteren data) :=
  writeWord_address data (by decide) (by decide)

theorem TableRow.writeWave (j : BitVec 4) (data : Byte) : TableRow.Statement (.writeWave j data) :=
  writeWord_page j data (by decide)

theorem TableRow.writeUnmapped15 (data : Byte) : TableRow.Statement (.writeUnmapped15 data) :=
  writeWord_address data (by decide) (by decide)

theorem TableRow.writeUnmapped1F (data : Byte) : TableRow.Statement (.writeUnmapped1F data) :=
  writeWord_address data (by decide) (by decide)

theorem TableRow.writeUnmapped27 (data : Byte) : TableRow.Statement (.writeUnmapped27 data) :=
  writeWord_address data (by decide) (by decide)

theorem TableRow.writeUnmapped28 (data : Byte) : TableRow.Statement (.writeUnmapped28 data) :=
  writeWord_address data (by decide) (by decide)

theorem TableRow.writeUnmapped29 (data : Byte) : TableRow.Statement (.writeUnmapped29 data) :=
  writeWord_address data (by decide) (by decide)

theorem TableRow.writeUnmapped2A (data : Byte) : TableRow.Statement (.writeUnmapped2A data) :=
  writeWord_address data (by decide) (by decide)

theorem TableRow.writeUnmapped2B (data : Byte) : TableRow.Statement (.writeUnmapped2B data) :=
  writeWord_address data (by decide) (by decide)

theorem TableRow.writeUnmapped2C (data : Byte) : TableRow.Statement (.writeUnmapped2C data) :=
  writeWord_address data (by decide) (by decide)

theorem TableRow.writeUnmapped2D (data : Byte) : TableRow.Statement (.writeUnmapped2D data) :=
  writeWord_address data (by decide) (by decide)

theorem TableRow.writeUnmapped2E (data : Byte) : TableRow.Statement (.writeUnmapped2E data) :=
  writeWord_address data (by decide) (by decide)

theorem TableRow.writeUnmapped2F (data : Byte) : TableRow.Statement (.writeUnmapped2F data) :=
  writeWord_address data (by decide) (by decide)

theorem TableRow.writeOut0 (lo : BitVec 4) (data : Byte) : TableRow.Statement (.writeOut0 lo data) :=
  writeWord_page lo data (by decide)

theorem TableRow.writeOut4 (lo : BitVec 4) (data : Byte) : TableRow.Statement (.writeOut4 lo data) :=
  writeWord_page lo data (by decide)

theorem TableRow.writeOut5 (lo : BitVec 4) (data : Byte) : TableRow.Statement (.writeOut5 lo data) :=
  writeWord_page lo data (by decide)

theorem TableRow.writeOut6 (lo : BitVec 4) (data : Byte) : TableRow.Statement (.writeOut6 lo data) :=
  writeWord_page lo data (by decide)

theorem TableRow.writeOut7 (lo : BitVec 4) (data : Byte) : TableRow.Statement (.writeOut7 lo data) :=
  writeWord_page lo data (by decide)

theorem TableRow.writeOut8 (lo : BitVec 4) (data : Byte) : TableRow.Statement (.writeOut8 lo data) :=
  writeWord_page lo data (by decide)

theorem TableRow.writeOut9 (lo : BitVec 4) (data : Byte) : TableRow.Statement (.writeOut9 lo data) :=
  writeWord_page lo data (by decide)

theorem TableRow.writeOutA (lo : BitVec 4) (data : Byte) : TableRow.Statement (.writeOutA lo data) :=
  writeWord_page lo data (by decide)

theorem TableRow.writeOutB (lo : BitVec 4) (data : Byte) : TableRow.Statement (.writeOutB lo data) :=
  writeWord_page lo data (by decide)

theorem TableRow.writeOutC (lo : BitVec 4) (data : Byte) : TableRow.Statement (.writeOutC lo data) :=
  writeWord_page lo data (by decide)

theorem TableRow.writeOutD (lo : BitVec 4) (data : Byte) : TableRow.Statement (.writeOutD lo data) :=
  writeWord_page lo data (by decide)

theorem TableRow.writeOutE (lo : BitVec 4) (data : Byte) : TableRow.Statement (.writeOutE lo data) :=
  writeWord_page lo data (by decide)

theorem TableRow.writeOutF (lo : BitVec 4) (data : Byte) : TableRow.Statement (.writeOutF lo data) :=
  writeWord_page lo data (by decide)

theorem TableRow.advance (elapsed : BitVec 28) : TableRow.Statement (.advance elapsed) :=
  operationWord_code elapsed (by decide)

theorem TableRow.getnext : TableRow.Statement .getnext := rfl

theorem TableRow.vblank : TableRow.Statement .vblank := rfl

theorem TableRow.init : TableRow.Statement .init := rfl

theorem TableRow.refresh : TableRow.Statement .refresh := rfl

theorem TableRow.mute : TableRow.Statement .mute := rfl

theorem TableRow.unmute : TableRow.Statement .unmute := rfl

theorem TableRow.setenabled (b : Bool) : TableRow.Statement (.setenabled b) := by
  cases b <;> rfl

theorem TableRow.setsync (b : Bool) : TableRow.Statement (.setsync b) := by
  cases b <;> rfl

theorem TableRow.refusedA (payload : BitVec 28) : TableRow.Statement (.refusedA payload) :=
  operationWord_code payload (by decide)

theorem TableRow.refusedB (payload : BitVec 28) : TableRow.Statement (.refusedB payload) :=
  operationWord_code payload (by decide)

theorem TableRow.refusedC (payload : BitVec 28) : TableRow.Statement (.refusedC payload) :=
  operationWord_code payload (by decide)

theorem TableRow.refusedD (payload : BitVec 28) : TableRow.Statement (.refusedD payload) :=
  operationWord_code payload (by decide)

theorem TableRow.refusedE (payload : BitVec 28) : TableRow.Statement (.refusedE payload) :=
  operationWord_code payload (by decide)

theorem TableRow.refusedF (payload : BitVec 28) : TableRow.Statement (.refusedF payload) :=
  operationWord_code payload (by decide)

theorem TableRow.msgStart (i : Chan) : TableRow.Statement (.msgStart i) := by
  cases i <;> rfl

theorem TableRow.msgUpdate (i : Chan) : TableRow.Statement (.msgUpdate i) := by
  cases i <;> rfl

theorem TableRow.msgUpdateAll : TableRow.Statement .msgUpdateAll := rfl

theorem TableRow.msgMasterVolumeAll : TableRow.Statement .msgMasterVolumeAll := rfl

theorem TableRow.msgMuteAll : TableRow.Statement .msgMuteAll := rfl

theorem TableRow.msgUnmuteAll : TableRow.Statement .msgUnmuteAll := rfl

theorem TableRow.msgReserved (w : Word) : TableRow.Statement (.msgReserved w) :=
  Nat.div_eq_of_lt w.isLt

end Sys2Proof.Laws
end

