-- ==== Sys2Proof/Laws/Step.lean ====
section
/-! SUPPORT. Everything a step can do, said once: a relation between states that is kept by each named update, and that
composes, is kept by every instruction and by every step. -/

namespace Sys2Proof.Machine

/-- A preorder on states that each named update of the machine respects. -/
structure StepClosed (R : State → State → Prop) : Prop where
  refl       : ∀ s, R s s
  trans      : ∀ {s t u}, R s t → R t u → R s u
  /-- An opportunity of the consumer. -/
  turn       : ∀ {s t}, consumerTurn s = .next t → R s t
  /-- A consumer that has removed a form of R111 counts it (R262). -/
  count      : ∀ {s w}, s.consumer.dequeued = some w → IsForm w → R s (countMessage s)
  /-- A send of a form of R111 (R245). -/
  send       : ∀ {k c s t}, IsForm (messageWord k c) → send k c s = .next t → R s t
  /-- The direct admission of the Mute and Unmute words (R259). -/
  enqueue    : ∀ {w s t}, IsForm w → enqueue w s = .next t → R s t
  /-- One look of the wait (R253). -/
  await      : ∀ {h s t}, s.held = some h → await h.word s = .next t → R s t
  /-- The tasks that a hold puts off. -/
  deferred   : ∀ (ts : List Task) (s : State), R s (deferTasks ts s)
  /-- A channel write up to its message (R121). -/
  channel    : ∀ {c body} (s : State), RegisterBody c body → R s (channelUpdate c (s.voice c).on (body s))
  mastervol  : ∀ (d : Byte) (s : State), R s (mastervolUpdate d s)
  routing    : ∀ (d : Byte) (s : State), R s (routingUpdate d s)
  wave       : ∀ (j : BitVec 4) (d : Byte) (s : State),
    R s { s with sampleBuf := convertSample s.cfg j.toNat d s.sampleBuf }
  disable    : ∀ s : State, R s (disableUpdate s)
  /-- The master enable with the first line of its resync (R177, R180). -/
  enable     : ∀ s : State, R s (commit .onMask 0 { s with masterEnable := true })
  /-- REFRESH with the first line of its resync (R285, R180). -/
  refresh    : ∀ s : State, R s (commit .onMask 0 (refreshUpdate s))
  mute       : ∀ s : State, R s { s with target := .dummy, muted := true }
  /-- UNMUTE up to the passes of its refresh (R290). -/
  unmute     : ∀ s : State, R s (commit .onMask 0 (refreshUpdate { s with target := .real, muted := false }))
  /-- SETENABLED 0 (R291). -/
  disabled   : ∀ s : State, R s { s with soundEnabled := false }
  /-- SETENABLED 1 from 0 up to the passes of its refresh (R291). -/
  enabled    : ∀ s : State, s.soundEnabled = false →
    R s (commit .onMask 0 (refreshUpdate { s with soundEnabled := true }))
  sync       : ∀ (b : Bool) (s : State), R s (syncUpdate b s)
  vblank     : ∀ s : State, R s (vblankUpdate s)
  output     : ∀ s : State, R s (emit (.nextEvent s.nextEvent) s)
  passes     : ∀ (e : BitVec 28) (s : State), R s (advancePasses e.toNat s).state
  init       : ∀ s : State, (s.started = true → s.consumerActive = false) → R s (initState s)
  fetched    : ∀ (s : State) (rest : List HostAction), R s { s with stream := rest }
  stored     : ∀ (a d : Byte) (s : State), 0x10 ≤ a.toNat → a.toNat ≤ 0x3F →
    R s { s with io := s.io.write a.toNat d }

theorem messageWord_one_form (c : Chan) : IsForm (messageWord .start (.one c)) ∧ IsForm (messageWord .update (.one c)) := by
  cases c <;> exact ⟨by decide, by decide⟩

section Closed

variable {R : State → State → Prop} (C : StepClosed R)
include C

theorem StepClosed.channelWrite {c : Chan} {body : State → State × Bool} (hb : RegisterBody c body) {s t : State}
    (h : channelWrite c body s = .next t) : R s t := by
  refine C.trans (C.channel s hb) ?_
  unfold Machine.channelWrite at h
  simp only [] at h
  split at h
  · exact C.send (messageWord_one_form c).1 h
  · split at h
    · exact C.send (messageWord_one_form c).2 h
    · cases h; exact C.refl _

theorem StepClosed.dispatch {a d : Byte} {s t : State} (h : dispatch a d s = .next t) : R s t := by
  unfold Machine.dispatch at h
  split at h
  · exact C.channelWrite (.sweep1 _) h
  · exact C.channelWrite (.lenduty1 _) h
  · exact C.channelWrite (.env1 _) h
  · exact C.channelWrite (.freqlo1 _) h
  · exact C.channelWrite (.freqhi1 _) h
  · exact C.channelWrite (.lenduty2 _) h
  · exact C.channelWrite (.env2 _) h
  · exact C.channelWrite (.freqlo2 _) h
  · exact C.channelWrite (.freqhi2 _) h
  · exact C.channelWrite (.dacen3 _) h
  · exact C.channelWrite (.len3 _) h
  · exact C.channelWrite (.level3 _) h
  · exact C.channelWrite (.freqlo3 _) h
  · exact C.channelWrite (.freqhi3 _) h
  · exact C.channelWrite (.len4 _) h
  · exact C.channelWrite (.env4 _) h
  · exact C.channelWrite (.poly4 _) h
  · exact C.channelWrite (.trig4 _) h
  · exact C.trans (C.mastervol _ s) (C.send (by decide) h)
  · exact C.trans (C.routing _ s) (C.send (by decide) h)
  · cases h; exact C.wave _ _ s
  · cases h; exact C.refl s

theorem StepClosed.runTask {k : Task} {s t : State} (h : runTask k s = .next t) : R s t := by
  cases k with
  | bulk a => exact C.dispatch h
  | retrigger i prev =>
    simp only [Machine.runTask] at h
    split at h
    · exact C.dispatch h
    · cases h; exact C.refl s
  | unmuteWord =>
    simp only [Machine.runTask] at h
    split at h
    · exact C.enqueue (by decide) h
    · cases h; exact C.refl s

theorem StepClosed.runTasks {ks : List Task} : ∀ {s t : State}, runTasks ks s = .next t → R s t := by
  induction ks with
  | nil => intro s t h; cases h; exact C.refl _
  | cons k ks ih =>
    intro s t h
    simp only [Machine.runTasks] at h
    obtain ⟨u, h1, h2⟩ := andThen_eq_next.mp h
    refine C.trans (C.runTask h1) ?_
    split at h2
    · cases h2; exact C.deferred _ u
    · exact ih h2

theorem StepClosed.resume {g : Held} {s t : State} (hg : s.held = some g) (h : resume g s = .next t) : R s t := by
  unfold Machine.resume at h
  obtain ⟨u, h1, h2⟩ := andThen_eq_next.mp h
  refine C.trans (C.await hg h1) ?_
  split at h2
  · cases h2; exact C.deferred _ u
  · exact C.runTasks h2

theorem StepClosed.receiveMessage {w : Word} (hf : IsForm w) {s t : State} (h : receiveMessage w s = .next t) :
    R s t := by
  unfold Machine.receiveMessage at h
  split at h
  · cases h
  split at h
  · next hd => cases h; exact C.count hd hf
  · cases h; exact C.refl s

/-- What every named update keeps, every instruction keeps. -/
theorem StepClosed.exec {i : Instr} {s t : State} (h : exec i s = .next t) : R s t := by
  have issued : ∀ {k : State → Result}, issue s k = .next t → k s = .next t := fun h => (issue_eq_next.mp h).2.2.2
  have nothing : issue s noEffect = .next t → R s t := fun h => by
    have := issued h; cases this; exact C.refl s
  cases i with
  | writeSweep1 d => exact C.channelWrite (.sweep1 d) (issued h)
  | writeLenduty1 d => exact C.channelWrite (.lenduty1 d) (issued h)
  | writeEnv1 d => exact C.channelWrite (.env1 d) (issued h)
  | writeFreqlo1 d => exact C.channelWrite (.freqlo1 d) (issued h)
  | writeFreqhi1 d => exact C.channelWrite (.freqhi1 d) (issued h)
  | writeLenduty2 d => exact C.channelWrite (.lenduty2 d) (issued h)
  | writeEnv2 d => exact C.channelWrite (.env2 d) (issued h)
  | writeFreqlo2 d => exact C.channelWrite (.freqlo2 d) (issued h)
  | writeFreqhi2 d => exact C.channelWrite (.freqhi2 d) (issued h)
  | writeDacen3 d => exact C.channelWrite (.dacen3 d) (issued h)
  | writeLen3 d => exact C.channelWrite (.len3 d) (issued h)
  | writeLevel3 d => exact C.channelWrite (.level3 d) (issued h)
  | writeFreqlo3 d => exact C.channelWrite (.freqlo3 d) (issued h)
  | writeFreqhi3 d => exact C.channelWrite (.freqhi3 d) (issued h)
  | writeLen4 d => exact C.channelWrite (.len4 d) (issued h)
  | writeEnv4 d => exact C.channelWrite (.env4 d) (issued h)
  | writePoly4 d => exact C.channelWrite (.poly4 d) (issued h)
  | writeTrig4 d => exact C.channelWrite (.trig4 d) (issued h)
  | writeMastervol d => exact C.trans (C.mastervol d s) (C.send (by decide) (issued h))
  | writeRouting d => exact C.trans (C.routing d s) (C.send (by decide) (issued h))
  | writeMasteren d =>
    have h := issued h
    unfold writeMasteren at h
    split at h
    · exact C.trans (C.disable s) (C.send (by decide) h)
    split at h
    · exact C.trans (C.enable s) (C.runTasks h)
    · cases h; exact C.refl s
  | writeWave j d => have h := issued h; cases h; exact C.wave j d s
  | writeUnmapped15 d => exact nothing h
  | writeUnmapped1F d => exact nothing h
  | writeUnmapped27 d => exact nothing h
  | writeUnmapped28 d => exact nothing h
  | writeUnmapped29 d => exact nothing h
  | writeUnmapped2A d => exact nothing h
  | writeUnmapped2B d => exact nothing h
  | writeUnmapped2C d => exact nothing h
  | writeUnmapped2D d => exact nothing h
  | writeUnmapped2E d => exact nothing h
  | writeUnmapped2F d => exact nothing h
  | writeOut0 l d => exact nothing h
  | writeOut4 l d => exact nothing h
  | writeOut5 l d => exact nothing h
  | writeOut6 l d => exact nothing h
  | writeOut7 l d => exact nothing h
  | writeOut8 l d => exact nothing h
  | writeOut9 l d => exact nothing h
  | writeOutA l d => exact nothing h
  | writeOutB l d => exact nothing h
  | writeOutC l d => exact nothing h
  | writeOutD l d => exact nothing h
  | writeOutE l d => exact nothing h
  | writeOutF l d => exact nothing h
  | advance e =>
    have h := issued h
    unfold advance at h
    simp only [] at h
    split at h
    · cases h
    split at h
    · exact C.trans (C.passes e s) (C.send (by decide) h)
    · cases h; exact C.passes e s
  | getnext => have h := issued h; cases h; exact C.output s
  | vblank => have h := issued h; cases h; exact C.vblank s
  | init =>
    change execInit s = .next t at h
    unfold execInit at h
    split at h
    · cases h
    split at h
    · cases h
    split at h
    · cases h
    · next hc =>
      cases h
      refine C.init s fun hs => ?_
      cases ha : s.consumerActive <;> simp_all
  | refresh => exact C.trans (C.refresh s) (C.runTasks (issued h))
  | mute =>
    have h := issued h
    unfold muteRule at h
    split at h
    · cases h; exact C.refl s
    · obtain ⟨u, h1, h2⟩ := andThen_eq_next.mp h
      cases h2
      refine C.trans ?_ (C.mute u)
      split at h1
      · exact C.enqueue (by decide) h1
      · cases h1; exact C.refl s
  | unmute =>
    have h := issued h
    unfold unmuteRule at h
    split at h
    · exact C.trans (C.unmute s) (C.runTasks h)
    · cases h; exact C.refl s
  | setenabled b =>
    have h := issued h
    unfold setEnabled at h
    split at h
    · next hc =>
      obtain ⟨h1, rfl⟩ := hc
      exact C.trans (C.enabled s h1) (C.runTasks h)
    · next hc =>
      cases h
      cases b with
      | false => exact C.disabled s
      | true =>
        have : s.soundEnabled = true := by cases hs : s.soundEnabled <;> simp_all
        rw [← this]
        exact C.refl s
  | setsync b => have h := issued h; cases h; exact C.sync b s
  | refusedA p => cases h
  | refusedB p => cases h
  | refusedC p => cases h
  | refusedD p => cases h
  | refusedE p => cases h
  | refusedF p => cases h
  | msgStart c => exact C.receiveMessage (messageWord_one_form c).1 h
  | msgUpdate c => exact C.receiveMessage (messageWord_one_form c).2 h
  | msgUpdateAll => exact C.receiveMessage (by decide) h
  | msgMasterVolumeAll => exact C.receiveMessage (by decide) h
  | msgMuteAll => exact C.receiveMessage (by decide) h
  | msgUnmuteAll => exact C.receiveMessage (by decide) h
  | msgReserved w => cases h

theorem StepClosed.hostStep {s t : State} (h : hostStep s = .next t) : R s t := by
  unfold Machine.hostStep at h
  split at h
  · exact C.turn h
  · next a d rest hs =>
    obtain ⟨u, h1, h2⟩ := andThen_eq_next.mp h
    refine C.trans (C.trans (C.fetched s rest) (C.turn h1)) ?_
    unfold hostStore at h2
    split at h2
    · next ha => cases h2; exact C.stored a d u ha.1 ha.2
    · cases h2
  · next w rest hs =>
    obtain ⟨u, h1, h2⟩ := andThen_eq_next.mp h
    refine C.trans (C.trans (C.fetched s rest) (C.turn h1)) ?_
    unfold runWord at h2
    split at h2
    · exact C.exec h2
    · cases h2

/-- What every named update keeps, every step keeps. -/
theorem StepClosed.step {s t : State} (h : step s = .next t) : R s t := by
  change nextAction s = .next t at h
  unfold nextAction at h
  split at h
  · cases h
  split at h
  · next g hg =>
    split at h
    · exact C.resume hg h
    · exact C.hostStep h
  · exact C.hostStep h

end Closed

/-- A step in which the host issues a word and the consumer makes no move is the decoded instruction's exec, after the
word is taken from the stream. -/
theorem step_op_silent {s : State} {w : Word} {rest : List HostAction} {i : Instr}
    (hc : configAdmitted s.cfg = true) (hh : s.held = none) (hs : s.stream = .op w :: rest) (ht : s.Silent)
    (hw : decodeOperation w = .ok i) : step s = exec i { s with stream := rest } := by
  have ht' : s.turns = [] := ht
  simp only [step, nextAction, hc, hh, hostStep, hs, Bool.true_eq_false, if_false]
  rw [consumerTurn_silent (by exact ht'), andThen_next, runWord, hw]

/-- A step accepts only an admitted configuration (R309 (f)). -/
theorem step_admitted {s t : State} (h : step s = .next t) : configAdmitted s.cfg = true := by
  change nextAction s = .next t at h
  unfold nextAction at h
  split at h
  · cases h
  · next hc => cases hx : configAdmitted s.cfg <;> simp_all

end Sys2Proof.Machine
end

