-- ==== Sys2Proof/Laws/Timing.lean ====
section
/-! SUPPORT. The timing engine: what every pass respects, how often a timer fires, and each pass's exact result. -/

namespace Sys2Proof.Machine

/-! ### What every pass respects -/

/-- A preorder on states that the updates of `ADVANCE` respect: the records and the next-event minimum, the deactivation
events, the commits of the on-mask, of channel 0's frequency and of the volumes of channels 0, 1 and 3. -/
structure PassClosed (R : State → State → Prop) : Prop where
  refl    : ∀ s, R s s
  trans   : ∀ {s t u}, R s t → R t u → R s u
  records : ∀ (s : State) (a : SweptSquare) (b : Square) (c : WaveChannel) (d : NoiseChannel) (n : Int),
    R s { s with ch0 := a, ch1 := b, ch2 := c, ch3 := d, nextEvent := n }
  signal  : ∀ (i : Chan) (s : State), R s (signalDeactivate i s)
  commit  : ∀ (f : Field) (v : Word) (s : State),
    f ∈ [Field.onMask, .freq .c0, .vol .c0, .vol .c1, .vol .c3] → R s (commit f v s)

section Closed

variable {R : State → State → Prop} (C : PassClosed R)
include C

theorem PassClosed.setVoice (i : Chan) (v : Voice) (s : State) : R s (setVoice i v s) := by
  cases i <;> exact C.records s _ _ _ _ _

theorem PassClosed.setEnv (i : Chan) (v : Envelope) (s : State) : R s (setEnv i v s) := by
  cases i <;> exact C.records s _ _ _ _ _

theorem PassClosed.reportNext (n : Int) (s : State) : R s (reportNext n s) := C.records s _ _ _ _ _

theorem PassClosed.switchOff (i : Chan) (p : Slice) : R p.state (switchOff i p).state :=
  C.trans (C.setVoice i _ p.state) (C.trans (C.commit .onMask _ _ (by decide)) (C.signal i _))

theorem PassClosed.sweepStep (p : Slice) : R p.state (sweepStep p).state := by
  unfold Machine.sweepStep
  simp only []
  split
  · exact C.trans (C.records p.state _ _ _ _ _) (C.switchOff .c0 { p with state := sweepStored p.state })
  · exact C.trans (C.records p.state _ _ _ _ _) (C.commit (.freq .c0) _ (sweepStored p.state) (by decide))

theorem PassClosed.sweepLoop (n : Nat) : ∀ p : Slice, R p.state (sweepLoop n p).state := by
  induction n with
  | zero => intro p; exact C.refl _
  | succ n ih =>
    intro p
    simp only [Machine.sweepLoop]
    split
    · exact C.trans (C.sweepStep p) (ih _)
    · exact C.refl _

theorem PassClosed.sweepReport (p : Slice) : R p.state (sweepReport p).state := by
  unfold Machine.sweepReport
  split
  · exact C.reportNext _ _
  · exact C.refl _

theorem PassClosed.sweepPass (e : Int) (p : Slice) : R p.state (sweepPass e p).state := by
  unfold Machine.sweepPass
  split
  · exact C.trans (C.records p.state _ _ _ _ _)
      (C.trans (C.sweepLoop _ { p with state := sweepElapse e p.state }) (C.sweepReport _))
  · exact C.refl _

theorem PassClosed.envelopeStep {i : Chan} (hi : i ≠ .c2) (v : Envelope) (p : Slice) :
    R p.state (envelopeStep i v p).state := by
  have hm : Field.vol i ∈ [Field.onMask, .freq .c0, .vol .c0, .vol .c1, .vol .c3] := by
    cases i <;> first | decide | exact absurd rfl hi
  unfold Machine.envelopeStep
  simp only []
  split
  · exact C.trans (C.setEnv i _ p.state) (C.commit _ _ _ hm)
  · exact C.setEnv i _ p.state

theorem PassClosed.envelopeLoop {i : Chan} (hi : i ≠ .c2) (n : Nat) :
    ∀ p : Slice, R p.state (envelopeLoop i n p).state := by
  induction n with
  | zero => intro p; exact C.refl _
  | succ n ih =>
    intro p
    simp only [Machine.envelopeLoop]
    split
    · split
      · exact C.trans (C.envelopeStep hi _ p) (ih _)
      · exact C.refl _
    · exact C.refl _

theorem PassClosed.envelopeReport (i : Chan) (p : Slice) : R p.state (envelopeReport i p).state := by
  unfold Machine.envelopeReport
  split
  · exact C.reportNext _ _
  · exact C.refl _

theorem PassClosed.envelopePass (e : Int) {i : Chan} (hi : i ≠ .c2) (p : Slice) :
    R p.state (envelopePass e i p).state := by
  unfold Machine.envelopePass
  split
  · next v _ =>
    split
    · exact C.trans (C.setEnv i { v with counter := v.counter - e } p.state)
        (C.trans (C.envelopeLoop hi _ { p with state := Machine.setEnv i { v with counter := v.counter - e } p.state })
          (C.envelopeReport i _))
    · exact C.refl _
  · exact C.refl _

theorem PassClosed.lengthPass (e : Int) (i : Chan) (p : Slice) : R p.state (lengthPass e i p).state := by
  unfold Machine.lengthPass
  simp only []
  split
  · split
    · exact C.trans (C.setVoice i { p.state.voice i with lenCounter := (p.state.voice i).lenCounter - e } p.state)
        (C.switchOff i { p with state := (Machine.setVoice i
          { p.state.voice i with lenCounter := (p.state.voice i).lenCounter - e } p.state) })
    · exact C.trans (C.setVoice i _ p.state) (C.reportNext _ _)
  · exact C.refl _

/-- What every update of the passes respects, the three passes respect. -/
theorem PassClosed.advancePasses (e : Int) (s : State) : R s (advancePasses e s).state := by
  unfold Machine.advancePasses
  simp only []
  exact C.trans (C.records s _ _ _ _ _) <|
    C.trans (C.sweepPass e ⟨{ s with nextEvent := noEvent }, false⟩) <|
    C.trans (C.envelopePass e (by decide) _) <| C.trans (C.envelopePass e (by decide) _) <|
    C.trans (C.envelopePass e (by decide) _) <| C.trans (C.lengthPass e .c0 _) <| C.trans (C.lengthPass e .c1 _) <|
    C.trans (C.lengthPass e .c2 _) (C.lengthPass e .c3 _)

end Closed

theorem passClosed_restSide : PassClosed fun s t => restSide t = restSide s where
  refl _ := rfl
  trans h1 h2 := h2.trans h1
  records _ _ _ _ _ _ := rfl
  signal i s := restSide_signalDeactivate s i
  commit f v s hf := restSide_commit s v (by
    simp only [List.mem_cons, List.not_mem_nil, or_false] at hf
    rcases hf with rfl | rfl | rfl | rfl | rfl <;> rfl)

/-- The passes leave everything alone that is no record, no committed parameter, no report and no deactivation. -/
theorem advancePasses_rest (e : Int) (s : State) : restSide (advancePasses e s).state = restSide s :=
  passClosed_restSide.advancePasses e s

/-- The passes change no byte of memory outside the fields they commit, and none while P is disabled. -/
theorem advancePasses_memByte (e : Int) (s : State) {a : Nat}
    (ha : s.soundEnabled = true →
      ∀ f ∈ [Field.onMask, .freq .c0, .vol .c0, .vol .c1, .vol .c3], ¬inField s.blockBase f a) :
    (advancePasses e s).state.memByte a = s.memByte a := by
  have C : PassClosed fun s t => (s.soundEnabled = true →
      ∀ f ∈ [Field.onMask, .freq .c0, .vol .c0, .vol .c1, .vol .c3], ¬inField s.blockBase f a) →
      restSide t = restSide s ∧ t.memByte a = s.memByte a :=
    { refl := fun _ _ => ⟨rfl, rfl⟩
      trans := fun {s t u} h1 h2 hs => by
        obtain ⟨r1, m1⟩ := h1 hs
        obtain ⟨r2, m2⟩ := h2 (by rw [restSide_soundEnabled r1, restSide_blockBase r1]; exact hs)
        exact ⟨r2.trans r1, m2.trans m1⟩
      records := fun _ _ _ _ _ _ _ => ⟨rfl, rfl⟩
      signal := fun i s _ => ⟨restSide_signalDeactivate s i, rfl⟩
      commit := fun f v s hf hs =>
        ⟨passClosed_restSide.commit f v s hf, commit_memByte fun he => hs he f hf⟩ }
  exact (C.advancePasses e s ha).2

/-- While P is disabled, the passes write no block (R288). -/
theorem advancePasses_disabled (e : Int) {s : State} (h : s.soundEnabled = false) :
    (advancePasses e s).state.rsb = s.rsb ∧ (advancePasses e s).state.dsb = s.dsb := by
  have C : PassClosed fun s t => s.soundEnabled = false →
      t.soundEnabled = false ∧ t.rsb = s.rsb ∧ t.dsb = s.dsb :=
    { refl := fun _ h => ⟨h, rfl, rfl⟩
      trans := fun h1 h2 hs => by
        obtain ⟨a, b, c⟩ := h1 hs
        obtain ⟨a', b', c'⟩ := h2 a
        exact ⟨a', b'.trans b, c'.trans c⟩
      records := fun _ _ _ _ _ _ h => ⟨h, rfl, rfl⟩
      signal := fun _ _ h => ⟨h, rfl, rfl⟩
      commit := fun f v s _ h => by simp [Machine.commit, h] }
  exact (C.advancePasses e s h).2

/-- While P writes the dummy block, the passes leave the real block alone (R33). -/
theorem advancePasses_dummy (e : Int) {s : State} (h : s.target = .dummy) :
    (advancePasses e s).state.rsb = s.rsb := by
  have C : PassClosed fun s t => s.target = .dummy → t.target = .dummy ∧ t.rsb = s.rsb :=
    { refl := fun _ h => ⟨h, rfl⟩
      trans := fun h1 h2 hs => by
        obtain ⟨a, b⟩ := h1 hs
        obtain ⟨a', b'⟩ := h2 a
        exact ⟨a', b'.trans b⟩
      records := fun _ _ _ _ _ _ h => ⟨h, rfl⟩
      signal := fun _ _ h => ⟨h, rfl⟩
      commit := fun f v s _ h => by
        unfold Machine.commit
        split <;> simp [h] }
  exact (C.advancePasses e s h).2

/-! ### How often a timer fires -/

/-- The number of firings is determined. -/
theorem Fires.unique {c p : Int} {m n : Nat} (hm : Fires c p m) (hn : Fires c p n) : m = n := by
  rcases Nat.lt_trichotomy m n with h | h | h
  · have := hn.2 m h; have := hm.1; omega
  · exact h
  · have := hm.2 n h; have := hn.1; omega

/-- A counter above 0 fires not at all. -/
theorem Fires.zero_iff {c p : Int} : Fires c p 0 ↔ 0 < c := by simp [Fires]

/-- With a period of at least 1 the fuel of a loop is exactly the number of firings (R215). -/
theorem fires_loopSteps {c p : Int} (hp : 1 ≤ p) : Fires c p (loopSteps c p) := by
  unfold loopSteps
  split
  · next h => exact Fires.zero_iff.mpr h
  rw [if_neg (by omega)]
  next h =>
  have hd : 0 ≤ -c / p := Int.ediv_nonneg (by omega) (by omega)
  have e : ((-c / p + 1).toNat : Int) = -c / p + 1 := Int.toNat_of_nonneg (by omega)
  have hm := Int.emod_add_mul_ediv (-c) p
  have h1 := Int.emod_nonneg (-c) (show p ≠ 0 by omega)
  have h2 := Int.emod_lt_of_pos (-c) (show 0 < p by omega)
  constructor
  · rw [e, Int.add_mul, Int.one_mul, Int.mul_comm]; omega
  · intro k hk
    have hk' : (k : Int) ≤ -c / p := by omega
    have := Int.mul_le_mul_of_nonneg_right hk' (show 0 ≤ p by omega)
    rw [Int.mul_comm (-c / p)] at this
    omega

/-- The sweep period is at least 1 from 128 cycles per second on, and for every time but 1 from 64 on (R215). -/
theorem one_le_envReload {cfg : Config} (h : configAdmitted cfg = true) {p : BitVec 3} (hp : p ≠ 0#3) :
    1 ≤ envReload cfg p := by
  have h64 : 64 ≤ cfg.clockSpeed := by
    simp only [configAdmitted, decide_eq_true_eq] at h; exact h.1
  have hp' : 1 ≤ p.toNat := by
    rcases Nat.eq_zero_or_pos p.toNat with h0 | h0
    · exact absurd (BitVec.eq_of_toNat_eq (by simpa using h0)) hp
    · exact h0
  have : 64 ≤ p.toNat * cfg.clockSpeed := le_trans h64 (Nat.le_mul_of_pos_left _ hp')
  unfold envReload
  omega

/-! ### Envelope steps -/

/-- The volume after `n` steps. -/
def stepVolume (up : Bool) (vol : BitVec 4) (n : Nat) : BitVec 4 :=
  if up then BitVec.ofNat 4 (min (vol.toNat + n) 15) else BitVec.ofNat 4 (vol.toNat - n)

@[simp] theorem stepVolume_zero (up : Bool) (vol : BitVec 4) : stepVolume up vol 0 = vol := by
  have := vol.isLt
  apply BitVec.eq_of_toNat_eq
  unfold stepVolume
  split
  · simp; omega
  · simp

theorem stepVolume_succ (up : Bool) (vol : BitVec 4) (n : Nat) :
    stepVolume up vol (n + 1) = envStepVol up (stepVolume up vol n) := by
  have hv := vol.isLt
  apply BitVec.eq_of_toNat_eq
  unfold stepVolume envStepVol
  cases up
  all_goals
    simp only [Bool.false_eq_true, if_true, if_false, BitVec.toNat_ofInt, BitVec.toNat_ofNat]
    omega

/-- The volume moves one way only: once it stands, it stands. -/
theorem stepVolume_fixed {up : Bool} {vol : BitVec 4} {n : Nat} (h : stepVolume up vol n = vol) :
    ∀ k ≤ n, stepVolume up vol k = vol := by
  intro k hk
  have hv := vol.isLt
  have h := congrArg BitVec.toNat h
  apply BitVec.eq_of_toNat_eq
  unfold stepVolume at h ⊢
  cases up <;> simp only [Bool.false_eq_true, if_true, if_false, BitVec.toNat_ofNat] at h ⊢ <;> omega

/-- The first step, then the rest. -/
theorem stepVolume_first (up : Bool) (vol : BitVec 4) (n : Nat) :
    stepVolume up (envStepVol up vol) n = stepVolume up vol (n + 1) := by
  induction n with
  | zero => rw [stepVolume_zero, stepVolume_succ, stepVolume_zero]
  | succ n ih => rw [stepVolume_succ, ih, ← stepVolume_succ]

/-! ### Updates that commute -/

theorem commit_setEnv (f : Field) (v : Word) (i : Chan) (e : Envelope) (s : State) :
    setEnv i e (commit f v s) = commit f v (setEnv i e s) := by
  cases he : s.soundEnabled <;> cases ht : s.target <;> cases i <;> simp [commit, he, ht, setEnv]

theorem put_put (b : SharedBlock) (f : Field) (v w : Word) : (b.put f v).put f w = b.put f w := by
  cases f <;> first | rfl | (rename_i i; cases i <;> rfl)

theorem commit_commit (f : Field) (v w : Word) (s : State) : commit f w (commit f v s) = commit f w s := by
  cases he : s.soundEnabled <;> cases ht : s.target <;> simp [commit, he, ht, put_put]

theorem setEnv_setEnv (i : Chan) (d e : Envelope) (s : State) : setEnv i e (setEnv i d s) = setEnv i e s := by
  cases i <;> rfl

/-! ### The envelope pass in closed form -/

/-- A slice after an envelope that stood at `v` moved to volume `vol` and counter `c`. -/
def envelopeDone (i : Chan) (v : Envelope) (vol : BitVec 4) (c : Int) (p : Slice) : Slice :=
  let s := setEnv i { v with vol := vol, counter := c } p.state
  if vol ≠ v.vol then ⟨commit (.vol i) (vol.setWidth 32) s, true⟩ else { p with state := s }

theorem envelopeLoop_done {i : Chan} (hi : i ≠ .c2) (n : Nat) :
    ∀ (p : Slice) (v : Envelope), p.state.env i = some v → Fires v.counter (envReload p.state.cfg v.period) n →
      envelopeLoop i n p = envelopeDone i v (stepVolume v.up v.vol n)
        (v.counter + n * envReload p.state.cfg v.period) p := by
  have env_set : ∀ (s : State) (e : Envelope), (setEnv i e s).env i = some e := by
    intro s e; rw [setEnv_env]; simp [hi]
  have set_same : ∀ (s : State) (v : Envelope), s.env i = some v → setEnv i v s = s := by
    intro s v h
    cases i <;> first | exact absurd rfl hi | (simp only [State.env, Option.some.injEq] at h; simp [setEnv, ← h])
  induction n with
  | zero =>
    intro p v hv _
    simp [envelopeLoop, envelopeDone, set_same p.state v hv]
  | succ n ih =>
    intro p v hv hf
    have h0 : v.counter ≤ 0 := by have := hf.2 0 (by omega); simpa using this
    simp only [envelopeLoop, hv, h0, if_true]
    set P := envReload p.state.cfg v.period with hP
    set w : Envelope := { v with vol := envStepVol v.up v.vol, counter := v.counter + P } with hw
    have hst : (envelopeStep i v p).state.env i = some w := by
      unfold envelopeStep; simp only []
      split
      · rw [commit_env]; exact env_set _ _
      · exact env_set _ _
    have hcfg : (envelopeStep i v p).state.cfg = p.state.cfg := by
      unfold envelopeStep; simp only []
      split <;> simp
    have hf' : Fires w.counter (envReload (envelopeStep i v p).state.cfg w.period) n := by
      rw [hcfg]
      constructor
      · have := hf.1; push_cast at this ⊢
        show 0 < v.counter + P + n * P
        linarith
      · intro k hk
        have := hf.2 (k + 1) (by omega); push_cast at this
        show v.counter + P + k * P ≤ 0
        linarith
    rw [ih _ _ hst hf', hcfg]
    have hvol : stepVolume w.up w.vol n = stepVolume v.up v.vol (n + 1) := stepVolume_first _ _ _
    have hcnt : w.counter + (n : Int) * envReload p.state.cfg w.period
        = v.counter + ((n + 1 : Nat) : Int) * P := by
      show v.counter + P + n * P = _
      push_cast; ring
    rw [hvol, hcnt]
    unfold envelopeDone
    simp only []
    by_cases h1 : envStepVol v.up v.vol = v.vol
    · have h2 : stepVolume v.up v.vol (n + 1) = v.vol := by
        have : stepVolume v.up (envStepVol v.up v.vol) n = stepVolume v.up v.vol (n + 1) := stepVolume_first _ _ _
        rw [h1] at this
        have fix : ∀ m, stepVolume v.up v.vol m = v.vol := by
          intro m
          induction m with
          | zero => simp
          | succ m ihm => rw [stepVolume_succ, ihm, h1]
        exact fix _
      have e1 : envelopeStep i v p = { p with state := (setEnv i w p.state) } := by
        unfold envelopeStep; simp only [h1, ne_eq, not_true, if_false]; rw [hw, h1]
      rw [h2, e1]
      simp [hw, h1, setEnv_setEnv]
    · have h2 : stepVolume v.up v.vol (n + 1) ≠ v.vol := by
        intro h
        have := stepVolume_fixed h 1 (by omega)
        rw [stepVolume_succ, stepVolume_zero] at this
        exact h1 this
      have e1 : envelopeStep i v p
          = ⟨commit (.vol i) ((envStepVol v.up v.vol).setWidth 32) (setEnv i w p.state), true⟩ := by
        unfold envelopeStep; simp only [ne_eq, h1, not_false_eq_true, if_true]; rfl
      rw [e1, if_pos h2]
      split
      · simp only [commit_setEnv, setEnv_setEnv, commit_commit]; rfl
      · next h3 =>
        rw [not_not] at h3
        simp only [commit_setEnv, setEnv_setEnv]
        rw [h3]

/-- The envelope of a channel after a slice of `e` cycles (R205, R206); `on` is its channel's flag before. -/
def envelopeAfter (cfg : Config) (e : Int) (on : Bool) (v : Envelope) : Envelope :=
  if on && decide (v.period ≠ 0#3) then
    { v with
      vol := stepVolume v.up v.vol (loopSteps (v.counter - e) (envReload cfg v.period))
      counter := v.counter - e
        + (loopSteps (v.counter - e) (envReload cfg v.period) : Nat) * envReload cfg v.period }
  else v

/-- The envelope pass, exactly: the record, the commit of a changed volume, the report, the mark (R205, R206). -/
theorem envelopePass_eq (e : Int) {i : Chan} (hi : i ≠ .c2) {p : Slice} {v : Envelope}
    (hc : configAdmitted p.state.cfg = true) (hv : p.state.env i = some v) :
    envelopePass e i p =
      let w := envelopeAfter p.state.cfg e (p.state.voice i).on v
      let s := setEnv i w p.state
      let s := if w.vol ≠ v.vol then commit (.vol i) (w.vol.setWidth 32) s else s
      if (p.state.voice i).on && decide (v.period ≠ 0#3) then
        ⟨reportNext w.counter s, p.changed || decide (w.vol ≠ v.vol)⟩
      else p := by
  have env_set : ∀ (s : State) (e : Envelope), (setEnv i e s).env i = some e := by
    intro s e; rw [setEnv_env]; simp [hi]
  unfold envelopePass
  simp only [hv]
  by_cases hr : ((p.state.voice i).on && decide (v.period ≠ 0#3)) = true
  · rw [if_pos hr, if_pos hr]
    have hp : v.period ≠ 0#3 := by simp only [Bool.and_eq_true, decide_eq_true_eq] at hr; exact hr.2
    have hf := fires_loopSteps (c := v.counter - e) (one_le_envReload hc hp)
    simp only [envelopeAfter, if_pos hr]
    set n := loopSteps (v.counter - e) (envReload p.state.cfg v.period) with hn
    set u : Envelope := { v with counter := v.counter - e } with hu
    rw [setEnv_cfg, ← hn, envelopeLoop_done hi n { p with state := (setEnv i u p.state) } u (env_set _ _)
      (by rw [setEnv_cfg]; exact hf)]
    rw [setEnv_cfg]
    unfold envelopeDone envelopeReport
    simp only [setEnv_setEnv]
    by_cases hw : stepVolume v.up v.vol n = v.vol
    · rw [if_neg (by simpa using hw), if_neg (by simpa using hw)]
      simp only [env_set]
      simp [hw, hu]
    · rw [if_pos (by simpa using hw), if_pos (by simpa using hw)]
      simp only [commit_env, env_set]
      simp [hw, hu]
  · rw [if_neg hr, if_neg hr]

/-! ### The length pass in closed form -/

/-- The common part of a channel after the length turn of a slice of `e` cycles (R207, R208). -/
def voiceAfter (e : Int) (v : Voice) : Voice :=
  if v.on && v.lenEnable then { v with lenCounter := v.lenCounter - e, on := decide (0 < v.lenCounter - e) } else v

/-- The length pass, exactly (R207, R208). -/
theorem lengthPass_eq (e : Int) (i : Chan) (p : Slice) :
    lengthPass e i p =
      let v := p.state.voice i
      let s := setVoice i (voiceAfter e v) p.state
      if v.on && !(voiceAfter e v).on then ⟨signalDeactivate i (commitOnBit i false s), true⟩
      else if v.on && v.lenEnable then { p with state := (reportNext (v.lenCounter - e) s) }
      else p := by
  unfold lengthPass voiceAfter
  simp only []
  by_cases h : ((p.state.voice i).on && (p.state.voice i).lenEnable) = true
  · rw [if_pos h, if_pos h]
    have hon : (p.state.voice i).on = true := by simp only [Bool.and_eq_true] at h; exact h.1
    by_cases hc : (p.state.voice i).lenCounter - e ≤ 0
    · have hd : decide (0 < (p.state.voice i).lenCounter - e) = false := by simp only [decide_eq_false_iff_not]; omega
      rw [if_pos hc]
      simp only [hon, hd, Bool.not_false, Bool.and_self, if_true]
      unfold switchOff setOn
      cases i <;> rfl
    · have hd : decide (0 < (p.state.voice i).lenCounter - e) = true := by simp only [decide_eq_true_eq]; omega
      rw [if_neg hc]
      simp only [hon, hd, Bool.not_true, Bool.and_false, Bool.false_eq_true, if_false]
      have hl : (p.state.voice i).lenEnable = true := by simp only [Bool.and_eq_true] at h; exact h.2
      rw [if_pos (by simp [hl])]
  · rw [if_neg h, if_neg h]
    have : ((p.state.voice i).on && !(p.state.voice i).on) = false := by cases (p.state.voice i).on <;> rfl
    rw [if_neg (by simp [this]), if_neg h]

/-! ### The sweep pass in closed form -/

theorem sweptAfter_succ (s : State) (n : Nat) :
    sweptAfter s (n + 1) =
      if s.ch0.sweep.down then sweptAfter s n - sweptAfter s n >>> s.ch0.sweep.shift.toNat
      else sweptAfter s n + sweptAfter s n >>> s.ch0.sweep.shift.toNat := rfl

/-- The frequency moves one way only. -/
theorem sweptAfter_mono (s : State) {m n : Nat} (h : m ≤ n) :
    (s.ch0.sweep.down = true → sweptAfter s n ≤ sweptAfter s m)
      ∧ (s.ch0.sweep.down = false → sweptAfter s m ≤ sweptAfter s n) := by
  induction n with
  | zero => obtain rfl : m = 0 := by omega
            exact ⟨fun _ => le_refl _, fun _ => le_refl _⟩
  | succ n ih =>
    rcases Nat.eq_or_lt_of_le h with rfl | h'
    · exact ⟨fun _ => le_refl _, fun _ => le_refl _⟩
    · obtain ⟨h1, h2⟩ := ih (by omega)
      rw [sweptAfter_succ]
      constructor
      · intro hd; rw [if_pos hd]; exact (Nat.sub_le _ _).trans (h1 hd)
      · intro hd; rw [if_neg (by simp [hd])]; exact (h2 hd).trans (Nat.le_add_right _ _)

/-- Once a step changes nothing, no later step does. -/
theorem sweptAfter_fixed (s : State) {n : Nat} (h : sweptAfter s (n + 1) = sweptAfter s n) :
    ∀ m, n ≤ m → sweptAfter s m = sweptAfter s n := by
  intro m hm
  induction m with
  | zero => obtain rfl : n = 0 := by omega
            rfl
  | succ m ih =>
    rcases Nat.eq_or_lt_of_le hm with rfl | h'
    · rfl
    · have e := ih (by omega)
      rw [sweptAfter_succ, e, ← sweptAfter_succ, h]

/-- Once the frequency has moved, it never is what it was. -/
theorem sweptAfter_back (s : State) {m n : Nat} (h : m ≤ n) (he : sweptAfter s n = sweptAfter s 0) :
    sweptAfter s m = sweptAfter s 0 := by
  obtain ⟨a1, a2⟩ := sweptAfter_mono s h
  obtain ⟨b1, b2⟩ := sweptAfter_mono s (Nat.zero_le m)
  cases hd : s.ch0.sweep.down with
  | true => have := a1 hd; have := b1 hd; omega
  | false => have := a2 hd; have := b2 hd; omega

/-- The record of channel 0 after `n` sweep steps that did not overflow. -/
def sweptRecord (s : State) (n : Nat) : SweptSquare :=
  { s.ch0 with
    freq := BitVec.ofNat 12 (sweptAfter s n)
    sweep := { s.ch0.sweep with
      counter := s.ch0.sweep.counter + n * sweepPeriod s.cfg s.ch0.sweep.time } }

/-- The slice after `n` sweep steps that did not overflow (R203). -/
def sweptSlice (p : Slice) (n : Nat) : Slice :=
  if n = 0 then p
  else
    ⟨commit (.freq .c0) ((BitVec.ofNat 16 (sweptAfter p.state n)).setWidth 32)
        { p.state with ch0 := sweptRecord p.state n },
      p.changed || decide (sweptAfter p.state n ≠ sweptAfter p.state 0)⟩

theorem sweptSlice_ch0 (p : Slice) (n : Nat) : (sweptSlice p n).state.ch0 = sweptRecord p.state n := by
  unfold sweptSlice
  split
  · next h => subst h; simp [sweptRecord, sweptAfter]
  · rw [commit_ch0]

theorem sweptSlice_cfg (p : Slice) (n : Nat) : (sweptSlice p n).state.cfg = p.state.cfg := by
  unfold sweptSlice; split
  · rfl
  · rw [commit_cfg]

theorem commit_setCh0 (f : Field) (v : Word) (a : SweptSquare) (s : State) :
    { commit f v s with ch0 := a } = commit f v { s with ch0 := a } := by
  cases he : s.soundEnabled <;> cases ht : s.target <;> simp [commit, he, ht]

/-- One more step, in range (R203). -/
theorem sweepStep_inRange (p : Slice) {n : Nat} (hn : sweptAfter p.state n ≤ 0x7FF ∨ n = 0)
    (h : sweptAfter p.state (n + 1) ≤ 0x7FF) :
    sweepStep (sweptSlice p n) = sweptSlice p (n + 1) := by
  have hf : (sweptSlice p n).state.ch0.freq.toNat = sweptAfter p.state n := by
    rw [sweptSlice_ch0]
    show (BitVec.ofNat 12 _).toNat = _
    rw [BitVec.toNat_ofNat]
    rcases hn with hn | rfl
    · omega
    · have := p.state.ch0.freq.isLt; show p.state.ch0.freq.toNat % _ = p.state.ch0.freq.toNat; omega
  have hsw : sweptFreq (sweptSlice p n).state.ch0.freq (sweptSlice p n).state.ch0.sweep.shift
      (sweptSlice p n).state.ch0.sweep.down = sweptAfter p.state (n + 1) := by
    unfold sweptFreq
    rw [hf, sweptSlice_ch0]
    rfl
  unfold sweepStep
  simp only []
  rw [hsw, if_neg (by omega), hf]
  have hrec : (sweepStored (sweptSlice p n).state) = { (sweptSlice p n).state with ch0 := sweptRecord p.state (n + 1) } := by
    unfold sweepStored
    rw [hsw, sweptSlice_cfg, sweptSlice_ch0]
    unfold sweptRecord
    simp only [State.mk.injEq, SweptSquare.mk.injEq, Sweep.mk.injEq, true_and, and_true]
    refine ⟨(sweptSlice_cfg p n).symm, ?_⟩
    push_cast; ring
  rw [hrec]
  have hfr : ∀ s : State, s.ch0 = sweptRecord p.state (n + 1) →
      s.freq .c0 = BitVec.ofNat 16 (sweptAfter p.state (n + 1)) := by
    intro s hs
    simp only [State.freq, hs, sweptRecord]
    apply BitVec.eq_of_toNat_eq
    simp only [BitVec.toNat_setWidth, BitVec.toNat_ofNat]
    omega
  rw [hfr _ rfl]
  unfold sweptSlice
  rw [if_neg (by omega : n + 1 ≠ 0)]
  by_cases h0 : n = 0
  · subst h0
    simp only [if_true, bne]
    congr 1
    simp [BEq.beq]
  · rw [if_neg h0]
    simp only []
    congr 1
    · rw [commit_setCh0, commit_commit]
    · simp only [Bool.or_assoc]
      congr 1
      by_cases e1 : sweptAfter p.state n = sweptAfter p.state 0
      · simp [e1]
        rfl
      · have e2 : sweptAfter p.state (n + 1) ≠ sweptAfter p.state 0 :=
          fun e => e1 (sweptAfter_back p.state (by omega) e)
        simp [e1, e2]

/-- The loop takes the steps that are due and in range. -/
theorem sweepLoop_inRange (p : Slice) (hon : p.state.ch0.voice.on = true) (m : Nat) :
    ∀ n : Nat, (∀ k : Nat, k < n → p.state.ch0.sweep.counter + k * sweepPeriod p.state.cfg p.state.ch0.sweep.time ≤ 0) →
      (∀ k, 1 ≤ k → k ≤ n → sweptAfter p.state k ≤ 0x7FF) →
      sweepLoop (n + m) p = sweepLoop m (sweptSlice p n) := by
  intro n
  induction n generalizing m with
  | zero => intro _ _; simp [sweptSlice]
  | succ n ih =>
    intro hc hr
    rw [show n + 1 + m = n + (m + 1) by omega, ih (m + 1) (fun k hk => hc k (by omega))
      (fun k h1 h2 => hr k h1 (by omega))]
    have h0 := hc n (by omega)
    simp only [sweepLoop]
    rw [if_pos (by
      rw [sweptSlice_ch0]
      simp only [sweptRecord, hon, Bool.true_and]
      exact decide_eq_true h0)]
    rw [sweepStep_inRange p (by
      by_cases hn : n = 0
      · exact .inr hn
      · exact .inl (hr n (by omega) (by omega))) (hr (n + 1) (by omega) (le_refl _))]

/-- The loop stops when the channel is off or its counter is above 0. -/
theorem sweepLoop_stops (m : Nat) (p : Slice) (h : p.state.ch0.voice.on = false ∨ 0 < p.state.ch0.sweep.counter) :
    sweepLoop m p = p := by
  cases m with
  | zero => rfl
  | succ m =>
    simp only [sweepLoop]
    rw [if_neg]
    rcases h with h | h
    · simp [h]
    · simp [not_le.mpr h]

/-- The state in which the sweep pass starts its loop. -/
def sweepStart (e : Int) (s : State) : Slice := ⟨sweepElapse e s, false⟩

/-- How the sweep of a slice ends, when channel 0 is on and sweeps: after `n` steps in range; with step `n + 1` out of
range; or never, which takes a period of 0. -/
inductive SweepOutcome (s : State) (c P : Int) : Prop
  | inRange (n : Nat) (hf : Fires c P n) (hr : ∀ k, 1 ≤ k → k ≤ n → sweptAfter s k ≤ 0x7FF)
  | overflow (n : Nat) (hc : c + n * P ≤ 0) (hr : ∀ k, 1 ≤ k → k ≤ n → sweptAfter s k ≤ 0x7FF)
      (ho : 0x7FF < sweptAfter s (n + 1))
  | endless (hP : P = 0) (hc : c ≤ 0) (hr : ∀ k, 1 ≤ k → sweptAfter s k ≤ 0x7FF)

theorem sweep_outcome (s : State) (c : Int) {P : Int} (hP : 0 ≤ P) : SweepOutcome s c P := by
  classical
  by_cases hb : ∃ k, 0x7FF < sweptAfter s (k + 1)
  · obtain ⟨ho, hm⟩ := Nat.find_spec hb, fun m h => Nat.find_min hb (m := m) h
    set n := Nat.find hb
    have hr : ∀ k, 1 ≤ k → k ≤ n → sweptAfter s k ≤ 0x7FF := by
      intro k h1 h2
      have := hm (k - 1) (by omega)
      rw [show k - 1 + 1 = k by omega] at this
      omega
    by_cases hc : c + n * P ≤ 0
    · exact .overflow n hc hr ho
    · rcases Int.lt_or_eq_of_le hP with h | h
      · have hf := fires_loopSteps (c := c) (p := P) (by omega)
        refine .inRange _ hf fun k h1 h2 => hr k h1 (h2.trans ?_)
        by_contra hlt
        have := hf.2 n (by omega)
        omega
      · refine .inRange 0 (Fires.zero_iff.mpr ?_) (fun k h1 h2 => by omega)
        rw [← h] at hc; simpa using hc
  · have hr : ∀ k, 1 ≤ k → sweptAfter s k ≤ 0x7FF := by
      intro k h1
      by_contra h
      exact hb ⟨k - 1, by rw [show k - 1 + 1 = k by omega]; omega⟩
    rcases Int.lt_or_eq_of_le hP with h | h
    · exact .inRange _ (fires_loopSteps (by omega)) fun k h1 _ => hr k h1
    · by_cases hc : 0 < c
      · exact .inRange 0 (Fires.zero_iff.mpr hc) fun k h1 _ => hr k h1
      · exact .endless h.symm (by omega) hr

theorem sweepPeriod_nonneg (cfg : Config) (t : BitVec 3) : 0 ≤ sweepPeriod cfg t := by
  unfold sweepPeriod; exact Int.natCast_nonneg _

/-- The fuel is at least the number of steps of a sweep that overflows. -/
theorem overflow_fuel (s : State) {c P : Int} {n : Nat} (hP : 0 ≤ P) (hc : c + n * P ≤ 0)
    (hr : ∀ k, 1 ≤ k → k ≤ n → sweptAfter s k ≤ 0x7FF) (ho : 0x7FF < sweptAfter s (n + 1)) :
    n + 1 ≤ loopSteps c P := by
  rcases Int.lt_or_eq_of_le hP with h | h
  · have hf := fires_loopSteps (c := c) (p := P) (by omega)
    by_contra hlt
    have h1 := hf.1
    have : (loopSteps c P : Int) * P ≤ n * P := Int.mul_le_mul_of_nonneg_right (by omega) hP
    omega
  · subst h
    have hc' : ¬0 < c := by simpa using hc
    unfold loopSteps
    rw [if_neg hc', if_pos rfl]
    by_cases h0 : n = 0
    · omega
    -- the frequency rises at every step
    have hn := hr n (by omega) (le_refl _)
    have hup : s.ch0.sweep.down = false := by
      cases hd : s.ch0.sweep.down with
      | false => rfl
      | true => have := (sweptAfter_mono s (show n ≤ n + 1 by omega)).1 hd; omega
    have hstrict : ∀ k ≤ n, sweptAfter s k < sweptAfter s (k + 1) := by
      intro k hk
      have hle := (sweptAfter_mono s (show k ≤ k + 1 by omega)).2 hup
      rcases Nat.lt_or_eq_of_le hle with h | h
      · exact h
      · have := sweptAfter_fixed s h.symm (n + 1) (by omega)
        have h2 := sweptAfter_fixed s h.symm n hk
        omega
    have hgrow : ∀ k ≤ n + 1, sweptAfter s 0 + k ≤ sweptAfter s k := by
      intro k
      induction k with
      | zero => intro _; omega
      | succ k ih => intro hk; have := ih (by omega); have := hstrict k (by omega); omega
    have h1 := hgrow n (by omega)
    have hpos : 1 ≤ sweptAfter s 0 := by
      by_contra hz
      have hz : sweptAfter s 0 = 0 := by omega
      have := hstrict 0 (by omega)
      rw [sweptAfter_succ, hz] at this
      simp at this
    omega

/-- The sweep pass, exactly, by its outcome (R202 to R204). -/
theorem sweepPass_off (e : Int) (p : Slice) (h : p.state.ch0.voice.on = false ∨ p.state.ch0.sweep.time = 0#3) :
    sweepPass e p = p := by
  unfold sweepPass
  rw [if_neg]
  rcases h with h | h <;> simp [h]

theorem sweepPass_inRange {e : Int} {p : Slice} (hon : p.state.ch0.voice.on = true)
    (ht : p.state.ch0.sweep.time ≠ 0#3) {n : Nat}
    (hf : Fires (p.state.ch0.sweep.counter - e) (sweepPeriod p.state.cfg p.state.ch0.sweep.time) n)
    (hr : ∀ k, 1 ≤ k → k ≤ n → sweptAfter p.state k ≤ 0x7FF) :
    sweepPass e p =
      let q := sweptSlice { p with state := (sweepElapse e p.state) } n
      { q with state := (reportNext q.state.ch0.sweep.counter q.state) } := by
  have hsw : ∀ k, sweptAfter (sweepElapse e p.state) k = sweptAfter p.state k := by
    intro k
    induction k with
    | zero => rfl
    | succ k ih => rw [sweptAfter_succ, sweptAfter_succ, ih]; rfl
  set q : Slice := { p with state := (sweepElapse e p.state) } with hq
  have hfuel : ∃ m, loopSteps (p.state.ch0.sweep.counter - e)
      (sweepPeriod p.state.cfg p.state.ch0.sweep.time) = n + m := by
    rcases Int.lt_or_eq_of_le (sweepPeriod_nonneg p.state.cfg p.state.ch0.sweep.time) with h | h
    · exact ⟨0, (fires_loopSteps (by omega)).unique hf⟩
    · refine ⟨_, (Nat.add_sub_cancel' ?_).symm⟩
      have : n = 0 := by
        by_contra h0
        have h1 := hf.2 0 (by omega)
        have h2 := hf.1
        rw [← h] at h1 h2
        simp at h1 h2
        omega
      omega
  obtain ⟨m, hm⟩ := hfuel
  have hloop : sweepLoop (n + m) q = sweptSlice q n := by
    rw [sweepLoop_inRange q hon m n (fun k hk => hf.2 k hk) (fun k h1 h2 => by rw [hsw]; exact hr k h1 h2)]
    refine sweepLoop_stops m _ (.inr ?_)
    rw [sweptSlice_ch0]
    exact hf.1
  unfold sweepPass
  rw [if_pos (by simp [hon, ht])]
  simp only []
  show sweepReport (sweepLoop (loopSteps (p.state.ch0.sweep.counter - e)
    (sweepPeriod p.state.cfg p.state.ch0.sweep.time)) q) = _
  rw [hm, hloop]
  unfold sweepReport
  rw [if_pos (by rw [sweptSlice_ch0]; exact hon)]

theorem sweepPass_overflow {e : Int} {p : Slice} (hon : p.state.ch0.voice.on = true)
    (ht : p.state.ch0.sweep.time ≠ 0#3) {n : Nat}
    (hc : p.state.ch0.sweep.counter - e + n * sweepPeriod p.state.cfg p.state.ch0.sweep.time ≤ 0)
    (hr : ∀ k, 1 ≤ k → k ≤ n → sweptAfter p.state k ≤ 0x7FF) (ho : 0x7FF < sweptAfter p.state (n + 1)) :
    sweepPass e p =
      let q := sweptSlice { p with state := (sweepElapse e p.state) } n
      switchOff .c0 { q with state :=
        ({ q.state with ch0 := sweptRecord (sweepElapse e p.state) (n + 1) } : State) } := by
  have hsw : ∀ k, sweptAfter (sweepElapse e p.state) k = sweptAfter p.state k := by
    intro k
    induction k with
    | zero => rfl
    | succ k ih => rw [sweptAfter_succ, sweptAfter_succ, ih]; rfl
  set q : Slice := { p with state := (sweepElapse e p.state) } with hq
  have hP := sweepPeriod_nonneg p.state.cfg p.state.ch0.sweep.time
  obtain ⟨m, hm⟩ : ∃ m, loopSteps (p.state.ch0.sweep.counter - e)
      (sweepPeriod p.state.cfg p.state.ch0.sweep.time) = n + (m + 1) := by
    have := overflow_fuel p.state hP hc hr ho
    exact ⟨loopSteps (p.state.ch0.sweep.counter - e)
      (sweepPeriod p.state.cfg p.state.ch0.sweep.time) - (n + 1), by omega⟩
  have hdue : ∀ k : Nat, k ≤ n → p.state.ch0.sweep.counter - e + k * sweepPeriod p.state.cfg p.state.ch0.sweep.time ≤ 0 := by
    intro k hk
    have : (k : Int) * sweepPeriod p.state.cfg p.state.ch0.sweep.time
        ≤ n * sweepPeriod p.state.cfg p.state.ch0.sweep.time := Int.mul_le_mul_of_nonneg_right (by omega) hP
    omega
  have hfr : (sweptSlice q n).state.ch0.freq.toNat = sweptAfter p.state n := by
    rw [sweptSlice_ch0]
    show (BitVec.ofNat 12 _).toNat = _
    rw [BitVec.toNat_ofNat, hsw]
    by_cases h0 : n = 0
    · subst h0; have := p.state.ch0.freq.isLt; show p.state.ch0.freq.toNat % _ = p.state.ch0.freq.toNat; omega
    · have := hr n (by omega) (le_refl _); omega
  have hsf : sweptFreq (sweptSlice q n).state.ch0.freq (sweptSlice q n).state.ch0.sweep.shift
      (sweptSlice q n).state.ch0.sweep.down = sweptAfter p.state (n + 1) := by
    unfold sweptFreq
    rw [hfr, sweptSlice_ch0]
    rfl
  have hstored : sweepStored (sweptSlice q n).state
      = { (sweptSlice q n).state with ch0 := sweptRecord (sweepElapse e p.state) (n + 1) } := by
    unfold sweepStored
    rw [hsf, sweptSlice_cfg, sweptSlice_ch0]
    unfold sweptRecord
    simp only [State.mk.injEq, SweptSquare.mk.injEq, Sweep.mk.injEq, true_and, and_true, hsw]
    refine ⟨(sweptSlice_cfg q n).symm, rfl, rfl, ⟨rfl, rfl, rfl, ?_⟩, rfl, rfl⟩
    show q.state.ch0.sweep.counter + n * sweepPeriod q.state.cfg q.state.ch0.sweep.time
        + sweepPeriod q.state.cfg q.state.ch0.sweep.time
      = q.state.ch0.sweep.counter + ((n + 1 : Nat) : Int) * sweepPeriod q.state.cfg q.state.ch0.sweep.time
    push_cast; ring
  unfold sweepPass
  rw [if_pos (by simp [hon, ht])]
  simp only []
  show sweepReport (sweepLoop (loopSteps (p.state.ch0.sweep.counter - e)
    (sweepPeriod p.state.cfg p.state.ch0.sweep.time)) q) = _
  rw [hm, sweepLoop_inRange q hon (m + 1) n (fun k hk => hdue k (by omega))
    (fun k h1 h2 => by rw [hsw]; exact hr k h1 h2)]
  simp only [sweepLoop]
  rw [if_pos (by
    rw [sweptSlice_ch0]
    simp only [Bool.and_eq_true, decide_eq_true_eq]
    exact ⟨hon, hdue n (le_refl _)⟩)]
  have hstep : sweepStep (sweptSlice q n) = switchOff .c0 { sweptSlice q n with state :=
      ({ (sweptSlice q n).state with ch0 := sweptRecord (sweepElapse e p.state) (n + 1) } : State) } := by
    unfold sweepStep
    simp only []
    rw [hsf, if_pos ho, hstored]
  rw [hstep]
  have hoff : ∀ r : Slice, (switchOff .c0 r).state.ch0.voice.on = false := by
    intro r; simp [switchOff, setOn, setVoice]
  rw [sweepLoop_stops m _ (.inl (hoff _))]
  unfold sweepReport
  rw [if_neg (by rw [hoff]; decide)]

/-! ### The sweep down by shift 1 (R203, R216) -/

/-- A step down by shift 1 halves the frequency and rounds up (R203). -/
theorem sweptFreq_half (f : BitVec 12) : sweptFreq f 1#3 true = (f.toNat + 1) / 2 := by
  simp only [sweptFreq, if_true, show (1#3).toNat = 1 from rfl, Nat.shiftRight_eq_div_pow]
  omega

/-- It leaves 0 and 1, and no other frequency, as they are: R203's step reaches 0 from 0 alone (log entry 30). -/
theorem sweptFreq_half_rests (f : BitVec 12) : sweptFreq f 1#3 true = f.toNat ↔ f.toNat ≤ 1 := by
  rw [sweptFreq_half]
  omega

end Sys2Proof.Machine
end

