-- ==== Sys2Proof/Tests/Slice0.lean ====
section
/-! SUPPORT. Tests: the ill-formed terms that WellFormed refuses; a word for every constructor, written out from the tables
of 30_encoding.md; single steps with the values of 95_test_vectors.md; and for every statement with hypotheses a state and
operands that meet them. -/

namespace Sys2Proof.Tests

open Sys2Proof Sys2Proof.Machine

/-! ## Helpers -/

/-- The next state, where there is one. -/
def after (r : Result) : State :=
  match r with
  | .next t => t
  | _ => State.reset

/-- The result is a next state of which `p` holds. -/
def holds (r : Result) (p : State → Bool) : Bool :=
  match r with
  | .next t => p t
  | _ => false

/-- The state after one step on the words of a program line (R113), from `s` with nothing else to do. -/
def line (a d : Byte) (s : State) : Result :=
  andThen (step { s with stream := writeLine a d }) step

/-- One operation word issued in `s`. -/
def issued (w : Word) (s : State) : Result := step { s with stream := [.op w] }

/-- Channel 0 plays: length enabled, envelope period 1 and falling, sweep time 1 up by shift 1; one word is queued. -/
def playing : State :=
  { State.reset with
    ch0 := ⟨⟨true, true, 1000, 0⟩, ⟨3, 3, false, 1, 500⟩, ⟨1, false, 1, 200⟩, 0x400, 0, 0⟩
    rsb := { State.reset.rsb with onMask := 1, sentCount := 1 }
    queue := [0x00#32], nextEvent := 200 }

/-- The reset state with a queue that drops early. -/
def narrow (threshold capacity : Nat) : State :=
  { State.reset with cfg := { Config.standard with dropThreshold := threshold, queueCapacity := capacity } }

/-- Cycle-accurate delivery with one draw listed and the consumer at `at_`. -/
def timed (cycles : Word) (double : Bool) (at_ : Word) : State :=
  { State.reset with
    accurateSync := true, draws := [⟨cycles, double⟩]
    rsb := { State.reset.rsb with hyperSync := true, consumerCycle := at_ } }

/-- P holds with target 500 for the word `MasterVolume(ALL)`. -/
def holding : State :=
  { State.reset with
    accurateSync := true, held := some ⟨0x2F#32, []⟩
    rsb := { State.reset.rsb with hyperSync := true, syncCycle := 500#32 } }

/-! ## Well-formed terms -/

theorem test_wellformed_refuses_update_all : Instr.wellFormed (.msgReserved 0x0000001F#32) = false := by decide
theorem test_wellformed_refuses_start_3 : Instr.wellFormed (.msgReserved 0x00000003#32) = false := by decide
theorem test_wellformed_takes_a_reserved_word : WellFormed (.msgReserved 0x00000021#32) := by decide

/-! ## Decoding: bits 31:28 op, 27:16 zero, 15:8 address, 7:0 data (R91, R93) -/

theorem test_decode_channel_0 :
    decodeTableWord 32 0b00000000000000000001000000101001 = some (.writeSweep1 0x29#8)
      ∧ decodeTableWord 32 0x000011BF = some (.writeLenduty1 0xBF#8)
      ∧ decodeTableWord 32 0x000012F3 = some (.writeEnv1 0xF3#8)
      ∧ decodeTableWord 32 0x000013D6 = some (.writeFreqlo1 0xD6#8)
      ∧ decodeTableWord 32 0x000014C6 = some (.writeFreqhi1 0xC6#8) := by decide

theorem test_decode_channel_1 :
    decodeTableWord 32 0b00000000000000000001011000111111 = some (.writeLenduty2 0x3F#8)
      ∧ decodeTableWord 32 0x00001719 = some (.writeEnv2 0x19#8)
      ∧ decodeTableWord 32 0x00001845 = some (.writeFreqlo2 0x45#8)
      ∧ decodeTableWord 32 0x000019C0 = some (.writeFreqhi2 0xC0#8) := by decide

theorem test_decode_channel_2 :
    decodeTableWord 32 0b00000000000000000001101010000000 = some (.writeDacen3 0x80#8)
      ∧ decodeTableWord 32 0x00001BF0 = some (.writeLen3 0xF0#8)
      ∧ decodeTableWord 32 0x00001C20 = some (.writeLevel3 0x20#8)
      ∧ decodeTableWord 32 0x00001D55 = some (.writeFreqlo3 0x55#8)
      ∧ decodeTableWord 32 0x00001EC7 = some (.writeFreqhi3 0xC7#8) := by decide

theorem test_decode_channel_3 :
    decodeTableWord 32 0b00000000000000000010000011000000 = some (.writeLen4 0xC0#8)
      ∧ decodeTableWord 32 0x00002131 = some (.writeEnv4 0x31#8)
      ∧ decodeTableWord 32 0x00002208 = some (.writePoly4 0x08#8)
      ∧ decodeTableWord 32 0x000023C0 = some (.writeTrig4 0xC0#8) := by decide

theorem test_decode_global :
    decodeTableWord 32 0b00000000000000000010010001110111 = some (.writeMastervol 0x77#8)
      ∧ decodeTableWord 32 0x000025F3 = some (.writeRouting 0xF3#8)
      ∧ decodeTableWord 32 0x00002680 = some (.writeMasteren 0x80#8)
      ∧ decodeTableWord 32 0x0000300F = some (.writeWave 0x0#4 0x0F#8)
      ∧ decodeTableWord 32 0x00003F80 = some (.writeWave 0xF#4 0x80#8) := by decide

theorem test_decode_unmapped :
    decodeTableWord 32 0b00000000000000000001010111111111 = some (.writeUnmapped15 0xFF#8)
      ∧ decodeTableWord 32 0x00001FFF = some (.writeUnmapped1F 0xFF#8)
      ∧ decodeTableWord 32 0x000027FF = some (.writeUnmapped27 0xFF#8)
      ∧ decodeTableWord 32 0x000028FF = some (.writeUnmapped28 0xFF#8)
      ∧ decodeTableWord 32 0x000029FF = some (.writeUnmapped29 0xFF#8)
      ∧ decodeTableWord 32 0x00002AFF = some (.writeUnmapped2A 0xFF#8)
      ∧ decodeTableWord 32 0x00002BFF = some (.writeUnmapped2B 0xFF#8)
      ∧ decodeTableWord 32 0x00002CFF = some (.writeUnmapped2C 0xFF#8)
      ∧ decodeTableWord 32 0x00002DFF = some (.writeUnmapped2D 0xFF#8)
      ∧ decodeTableWord 32 0x00002EFF = some (.writeUnmapped2E 0xFF#8)
      ∧ decodeTableWord 32 0x00002FFF = some (.writeUnmapped2F 0xFF#8) := by decide

theorem test_decode_outside_the_window :
    decodeTableWord 32 0b00000000000000000000000000000000 = some (.writeOut0 0x0#4 0x00#8)
      ∧ decodeTableWord 32 0x000041FF = some (.writeOut4 0x1#4 0xFF#8)
      ∧ decodeTableWord 32 0x000052FF = some (.writeOut5 0x2#4 0xFF#8)
      ∧ decodeTableWord 32 0x000063FF = some (.writeOut6 0x3#4 0xFF#8)
      ∧ decodeTableWord 32 0x000074FF = some (.writeOut7 0x4#4 0xFF#8)
      ∧ decodeTableWord 32 0x000085FF = some (.writeOut8 0x5#4 0xFF#8)
      ∧ decodeTableWord 32 0x000096FF = some (.writeOut9 0x6#4 0xFF#8)
      ∧ decodeTableWord 32 0x0000A7FF = some (.writeOutA 0x7#4 0xFF#8)
      ∧ decodeTableWord 32 0x0000B8FF = some (.writeOutB 0x8#4 0xFF#8)
      ∧ decodeTableWord 32 0x0000C9FF = some (.writeOutC 0x9#4 0xFF#8)
      ∧ decodeTableWord 32 0x0000DAFF = some (.writeOutD 0xA#4 0xFF#8)
      ∧ decodeTableWord 32 0x0000EBFF = some (.writeOutE 0xB#4 0xFF#8)
      ∧ decodeTableWord 32 0x0000FFFF = some (.writeOutF 0xF#4 0xFF#8) := by decide

theorem test_decode_operations :
    decodeTableWord 32 0b00011111111111111111111111111111 = some (.advance 268435455#28)
      ∧ decodeTableWord 32 0x10000000 = some (.advance 0#28)
      ∧ decodeTableWord 32 0x20000000 = some .getnext
      ∧ decodeTableWord 32 0x30000000 = some .vblank
      ∧ decodeTableWord 32 0b01000000000000000000000000000000 = some .init
      ∧ decodeTableWord 32 0x50000000 = some .refresh
      ∧ decodeTableWord 32 0x60000000 = some .mute
      ∧ decodeTableWord 32 0x70000000 = some .unmute
      ∧ decodeTableWord 32 0x80000000 = some (.setenabled false)
      ∧ decodeTableWord 32 0b10000000000000000000000000000001 = some (.setenabled true)
      ∧ decodeTableWord 32 0x90000000 = some (.setsync false)
      ∧ decodeTableWord 32 0x90000001 = some (.setsync true) := by decide

theorem test_decode_reserved_codes :
    decodeTableWord 32 0b10100000000000000000000000000000 = some (.refusedA 0#28)
      ∧ decodeTableWord 32 0xB1234567 = some (.refusedB 0x1234567#28)
      ∧ decodeTableWord 32 0xC0000000 = some (.refusedC 0#28)
      ∧ decodeTableWord 32 0xD0000001 = some (.refusedD 1#28)
      ∧ decodeTableWord 32 0xE0000000 = some (.refusedE 0#28)
      ∧ decodeTableWord 32 0xFFFFFFFF = some (.refusedF 0xFFFFFFF#28) := by decide

theorem test_decode_refuses_must_be_zero :
    decodeTableWord 32 0x00011480 = none ∧ decodeTableWord 32 0x0FFF0000 = none
      ∧ decodeTableWord 32 0x20000001 = none ∧ decodeTableWord 32 0x50000100 = none
      ∧ decodeTableWord 32 0x80000002 = none ∧ decodeTableWord 32 0x90010001 = none := by decide

/-- Bits 7:4 the kind, bits 3:0 the channel (R110, R111). -/
theorem test_decode_messages :
    decodeMessage 0b00000000000000000000000000000011#32 = .msgStart .c3
      ∧ decodeMessage 0x00000012#32 = .msgUpdate .c2
      ∧ decodeMessage 0b00000000000000000000000000011111#32 = .msgUpdateAll
      ∧ decodeMessage 0x0000002F#32 = .msgMasterVolumeAll
      ∧ decodeMessage 0x0000003F#32 = .msgMuteAll
      ∧ decodeMessage 0x0000004F#32 = .msgUnmuteAll
      ∧ decodeMessage 0x0000000F#32 = .msgReserved 0x0F#32
      ∧ decodeMessage 0x00000050#32 = .msgReserved 0x50#32
      ∧ decodeMessage 0x0000011F#32 = .msgReserved 0x11F#32 := by decide

/-- The word that withFetchWord places is the one the next step runs. -/
theorem test_fetch_word :
    holds (step (State.reset.withFetchWord 32 0x00001480)) (fun t => t.ch0.voice.on && t.stream.isEmpty) = true := by
  decide

/-! ## Single steps, with the values of 95_test_vectors.md -/

/-- L1.1. -/
theorem test_freqhi1_trigger :
    holds (line 0x14 0x80 State.reset) (fun t => t.ch0.voice.on && t.rsb.onMask == 1#4
      && t.ch0.voice.lenCounter == 1048576 && t.queue == [0x00#32] && t.nextEvent == noEvent) = true := by decide

/-- DS4, its second write. -/
theorem test_freqhi1_without_trigger :
    holds (issued 0x00001447#32 State.reset) (fun t => t.ch0.freq == 0x700#12 && t.ch0.voice.lenEnable
      && t.ch0.voice.lenCounter == 0 && t.queue == [0x10#32]) = true := by decide

/-- L1.2, its first write. -/
theorem test_sweep1 :
    holds (line 0x10 0x29 State.reset) (fun t => t.ch0.sweep.time == 2#3 && t.ch0.sweep.down
      && t.ch0.sweep.shift == 1#3 && t.queue == []) = true := by decide

/-- DS1. -/
theorem test_lenduty1 :
    holds (line 0x11 0xBF State.reset) (fun t => t.ch0.duty == 2#2 && t.ch0.len == 63#6
      && t.ch0.voice.lenCounter == 16384 && t.rsb.duty.c0 == 2#8 && t.queue == [0x10#32]) = true := by decide

/-- DS2 for channel 1: the length alone sends nothing. -/
theorem test_lenduty2_length_only :
    holds (line 0x16 0x3F State.reset) (fun t => t.ch1.len == 63#6 && t.ch1.voice.lenCounter == 16384
      && t.queue == []) = true := by decide

/-- DS6. -/
theorem test_env1 :
    holds (line 0x12 0xF3 State.reset) (fun t => t.ch0.env == ⟨0, 15, false, 3, 0⟩ && t.queue == []) = true := by decide

/-- TE10, its first write. -/
theorem test_env2 :
    holds (line 0x17 0x19 State.reset) (fun t => t.ch1.env == ⟨0, 1, true, 1, 0⟩ && t.queue == []) = true := by decide

/-- R126 for channel 3. -/
theorem test_env4 :
    holds (line 0x21 0x5A State.reset) (fun t => t.ch3.env == ⟨0, 5, true, 2, 0⟩ && t.queue == []) = true := by decide

/-- R124: bit 11 of an overflowed frequency is cleared (P2, line 11). -/
theorem test_freqlo1_clears_bit_11 :
    holds (line 0x13 0x00 { State.reset with ch0 := { State.reset.ch0 with freq := 0xB40 } })
      (fun t => t.ch0.freq == 0x300#12 && t.queue == [0x10#32]) = true := by decide

/-- DS3, its last write, and DS3b. -/
theorem test_freqlo2 :
    holds (line 0x18 0x45 { State.reset with ch1 := { State.reset.ch1 with freq := 0x123 } })
      (fun t => t.ch1.freq == 0x145#12 && t.queue == [0x11#32]) = true := by decide

theorem test_freqlo3_unchanged :
    holds (line 0x1D 0x45 { State.reset with ch2 := { State.reset.ch2 with freq := 0x145 } })
      (fun t => t.ch2.freq == 0x145#12 && t.queue == []) = true := by decide

/-- GR5, its second write. -/
theorem test_freqhi2_trigger :
    holds (line 0x19 0xC0 State.reset) (fun t => t.ch1.voice.on && t.rsb.onMask == 2#4 && t.queue == [0x01#32]
      && t.nextEvent == 1048576) = true := by decide

/-- DS7b: the wave gate. -/
theorem test_freqhi3_gated :
    holds (line 0x1E 0x81 State.reset) (fun t => t.ch2.freq == 0x100#12 && !t.ch2.voice.on
      && t.queue == [0x12#32]) = true := by decide

/-- DS8, its second write. -/
theorem test_freqhi3_trigger :
    holds (line 0x1E 0x80 { State.reset with ch2 := { State.reset.ch2 with dac := true } })
      (fun t => t.ch2.voice.on && t.ch2.voice.lenCounter == 4194304 && t.rsb.onMask == 4#4
        && t.queue == [0x02#32]) = true := by decide

/-- DS8, its first write. -/
theorem test_dacen3_on : holds (line 0x1A 0x80 State.reset) (fun t => t.ch2.dac && t.queue == []) = true := by decide

/-- DS9. -/
theorem test_dacen3_off :
    holds (line 0x1A 0x00 { State.reset with
        ch2 := { State.reset.ch2 with voice := ⟨true, false, 0, 0⟩, dac := true }
        rsb := { State.reset.rsb with onMask := 4 } })
      (fun t => !t.ch2.voice.on && t.rsb.onMask == 0#4 && t.queue == [0x12#32] && t.events == []) = true := by decide

/-- DS10. -/
theorem test_len3 :
    holds (line 0x1B 0xFF State.reset) (fun t => t.ch2.voice.lenCounter == 16384 && t.queue == []) = true := by decide

/-- DS14, its second write. -/
theorem test_level3 :
    holds (line 0x1C 0x9F { State.reset with ch2 := { State.reset.ch2 with vol := 1 } })
      (fun t => t.ch2.vol == 0#2 && t.queue == [0x12#32]) = true := by decide

/-- DS11. -/
theorem test_len4 :
    holds (line 0x20 0xC0 State.reset) (fun t => t.ch3.len == 0#6 && t.ch3.voice.lenCounter == 1048576) = true := by
  decide

/-- DS13. -/
theorem test_poly4 :
    holds (line 0x22 0x08 State.reset) (fun t => t.ch3.freq == 0x08#8 && t.rsb.freq.c3 == 0x0008#16
      && t.queue == [0x13#32]) = true := by decide

/-- DS12. -/
theorem test_trig4 :
    holds (line 0x23 0xC0 State.reset) (fun t => t.ch3.voice.on && t.ch3.voice.lenEnable && t.queue == [0x03#32]
      && t.nextEvent == 1048576) = true := by decide

/-- DS15: a trigger loads the volume and the envelope counter. -/
theorem test_trigger_loads_the_envelope :
    holds (line 0x14 0x80 { State.reset with ch0 := { State.reset.ch0 with env := ⟨0, 10, false, 5, 0⟩ } })
      (fun t => t.ch0.env.vol == 10#4 && t.ch0.env.counter == 327680 && t.rsb.vol.c0 == 10#8
        && t.nextEvent == 327680) = true := by decide

/-- DS17: disabled. -/
theorem test_disabled_trigger :
    holds (issued 0x00001980#32 { State.reset with soundEnabled := false })
      (fun t => t.ch1.voice.on && t.rsb.onMask == 0#4 && t.queue == []) = true := by decide

/-- DS18: muted. -/
theorem test_muted_trigger :
    holds (issued 0x00001480#32 { State.reset with muted := true, target := .dummy })
      (fun t => t.dsb.onMask == 1#4 && t.rsb.onMask == 0#4 && t.queue == []) = true := by decide

/-- DS19. -/
theorem test_unmapped_and_outside :
    exec (.writeUnmapped15 0xFF#8) playing = .next playing ∧ exec (.writeUnmapped2F 0xFF#8) playing = .next playing
      ∧ exec (.writeOut0 0 0xFF#8) playing = .next playing ∧ exec (.writeOutF 0xF 0xFF#8) playing = .next playing := by
  exact ⟨rfl, rfl, rfl, rfl⟩

/-- GR1. -/
theorem test_mastervol :
    holds (line 0x24 0x77 State.reset) (fun t => t.rsb.masterVolume == 0x77#8 && t.queue == [0x2F#32]) = true := by decide

/-- GR2. -/
theorem test_routing :
    holds (line 0x25 0xF3 State.reset) (fun t => t.rsb.pan == ⟨3, 3, 2, 2⟩ && t.ch2.voice.pan == 2#2
      && t.rsb.routing == 0xF3#8 && t.queue == [0x1F#32]) = true := by decide

/-- GR4. -/
theorem test_master_enable :
    holds (line 0x26 0x80 State.reset) (fun t => t.masterEnable && t.queue == [0x2F#32, 0x1F#32]) = true := by decide

/-- L1.3, its third write. -/
theorem test_master_disable :
    holds (line 0x26 0x00 { State.reset with
        masterEnable := true, ch1 := { State.reset.ch1 with voice := ⟨true, false, 0, 0⟩ }
        rsb := { State.reset.rsb with onMask := 2 } })
      (fun t => t.ch1.voice.on && t.rsb.onMask == 0#4 && t.queue == [0x1F#32]) = true := by decide

/-- WV1, WV2. -/
theorem test_wave_first :
    holds (line 0x30 0x0F State.reset) (fun t => t.sampleBuf.read 0 == 0x81#8 && t.sampleBuf.read 1 == 0x7F#8
      && t.queue == []) = true := by decide

theorem test_wave_last :
    holds (line 0x3F 0x80 State.reset) (fun t => t.sampleBuf.read 30 == 0x0F#8 && t.sampleBuf.read 31 == 0x81#8) = true := by
  decide

/-- TE2. -/
theorem test_advance_sweeps :
    holds (exec (.advance 100000#28) { State.reset with
        ch0 := { State.reset.ch0 with voice := ⟨true, false, 0, 0⟩, sweep := ⟨1, true, 1, 32768⟩, freq := 0x400 } })
      (fun t => t.ch0.freq == 0x080#12 && t.ch0.sweep.counter == 31072 && t.rsb.freq.c0 == 0x0080#16
        && t.nextEvent == 31072 && t.queue == [0x1F#32]) = true := by decide

/-- R216, its second `ADVANCE`: 0x200 − 0x100. -/
theorem test_sweep_halves_again :
    holds (exec (.advance 65536#28) { State.reset with
        ch0 := { State.reset.ch0 with voice := ⟨true, false, 1048576, 0⟩, sweep := ⟨2, true, 1, 65536⟩, freq := 0x200 } })
      (fun t => t.ch0.freq == 0x100#12 && t.ch0.voice.on && t.nextEvent == 65536 && t.queue == [0x1F#32]) = true := by
  decide

/-- R216, "after that a step leaves it at 0, marks nothing changed, and sends nothing". -/
theorem test_sweep_rests_at_0 :
    holds (exec (.advance 65536#28) { State.reset with
        ch0 := { State.reset.ch0 with voice := ⟨true, false, 1048576, 0⟩, sweep := ⟨2, true, 1, 65536⟩, freq := 0 } })
      (fun t => t.ch0.freq == 0#12 && t.ch0.voice.on && t.ch0.sweep.counter == 65536 && t.queue == []) = true := by
  decide

/-- R203 with a frequency of 1: 1 − (1 >> 1) is 1 (log entry 30). -/
theorem test_sweep_rests_at_1 :
    holds (exec (.advance 32768#28) { State.reset with
        ch0 := { State.reset.ch0 with voice := ⟨true, false, 0, 0⟩, sweep := ⟨1, true, 1, 32768⟩, freq := 1 } })
      (fun t => t.ch0.freq == 1#12 && t.ch0.voice.on && t.queue == []) = true := by decide

/-- TE1. -/
theorem test_advance_overflows :
    holds (exec (.advance 32768#28) { State.reset with
        ch0 := { State.reset.ch0 with voice := ⟨true, false, 0, 0⟩, sweep := ⟨1, false, 0, 32768⟩, freq := 0x400 }
        rsb := { State.reset.rsb with onMask := 1, freq := ⟨0x400, 0, 0, 0⟩ } })
      (fun t => t.ch0.freq == 0x800#12 && !t.ch0.voice.on && t.rsb.onMask == 0#4 && t.rsb.freq.c0 == 0x0400#16
        && t.events == [.deactivate .c0] && t.queue == [0x1F#32]) = true := by decide

/-- L1.2, LC13. -/
theorem test_getnext :
    holds (issued 0x20000000#32 { State.reset with nextEvent := 65536 })
      (fun t => t.events == [.nextEvent 65536] && t.nextEvent == 65536) = true := by decide

/-- LC8, LC9. -/
theorem test_vblank : holds (issued 0x30000000#32 State.reset) (fun t => t.rsb.producerFlip) = true := by decide

theorem test_setsync :
    holds (issued 0x90000001#32 State.reset) (fun t => t.accurateSync && t.rsb.hyperSync) = true := by decide

/-- WV4: INIT converts the wave RAM. -/
theorem test_init :
    holds (issued 0x40000000#32 { playing with io := [(0x31, 0x12#8)] })
      (fun t => t.sampleBuf.read 2 == 0x91#8 && t.sampleBuf.read 3 == 0xA1#8 && t.sampleBuf.read 4 == 0x81#8
        && t.queue == [] && t.rsb == SharedBlock.reset Config.standard && !t.ch0.voice.on) = true := by decide

/-- GR6: the stored master bit is 0, so a REFRESH restarts nothing. -/
theorem test_refresh_without_master :
    holds (issued 0x50000000#32 { State.reset with
        masterEnable := true, ch0 := { State.reset.ch0 with voice := ⟨true, false, 5, 0⟩ } })
      (fun t => t.ch0.voice.on && t.rsb.onMask == 0#4 && t.queue == [0x2F#32, 0x1F#32]) = true := by decide

/-- LC2, LC3. -/
theorem test_mute :
    holds (issued 0x60000000#32 State.reset) (fun t => t.queue == [0x3F#32] && t.target == .dummy && t.muted) = true := by
  decide

/-- LC4, its last operation. -/
theorem test_unmute :
    holds (issued 0x70000000#32 { State.reset with
        muted := true, target := .dummy, io := [(0x14, 0x80#8), (0x26, 0x80#8)]
        ch0 := { State.reset.ch0 with voice := ⟨true, false, 0, 0⟩ } })
      (fun t => t.queue == [0x2F#32, 0x1F#32, 0x00#32, 0x4F#32] && t.rsb.onMask == 1#4 && !t.muted) = true := by decide

/-- LC7, its last operation. -/
theorem test_setenabled :
    holds (issued 0x80000001#32 { State.reset with
        soundEnabled := false, io := [(0x19, 0x80#8), (0x26, 0x80#8)]
        ch1 := { State.reset.ch1 with voice := ⟨true, false, 0, 0⟩ } })
      (fun t => t.queue == [0x2F#32, 0x1F#32, 0x01#32] && t.rsb.onMask == 2#4) = true := by decide

/-- L2.1: refused words have no step. -/
theorem test_refused :
    issued 0xA0000000#32 State.reset = .refused .reservedOperation
      ∧ issued 0xFFFFFFFF#32 State.reset = .refused .reservedOperation
      ∧ issued 0x00011480#32 State.reset = .refused .mustBeZero := ⟨rfl, rfl, rfl⟩

/-- L2.2: a message word is counted; a reserved one is a fault of the environment. -/
theorem test_messages :
    holds (exec .msgUpdateAll { State.reset with consumer := ⟨some 0x1F#32, false, .idle⟩ })
        (fun t => t.rsb.recvCount == 1#32 && t.consumer.dequeued == none) = true
      ∧ exec (.msgReserved 0x0F#32) State.reset = .fault (.reservedMessage 0x0F#32) := ⟨rfl, rfl⟩

/-- SQ3: a word that fails both tests is counted as a threshold drop only. -/
theorem test_threshold_before_capacity :
    holds (issued 0x00002400#32 { narrow 2 2 with
        queue := [0x2F#32, 0x2F#32], rsb := { State.reset.rsb with sentCount := 2 } })
      (fun t => t.diagCount == ⟨0, 1, 0, 0⟩ && t.queue == [0x2F#32, 0x2F#32]) = true := by decide

/-- SQ5: the sent count wraps. -/
theorem test_sent_count_wraps :
    holds (issued 0x00002400#32 { narrow 3 4 with
        queue := [0x2F#32], rsb := { State.reset.rsb with sentCount := 0xFFFFFFFF, recvCount := 0xFFFFFFFE } })
      (fun t => t.rsb.sentCount == 0#32 && t.queue == [0x2F#32, 0x2F#32]) = true := by decide

/-- SY1, its write. -/
theorem test_sync_holds :
    holds (issued 0x00002400#32 (timed 1000 true 100)) (fun t => t.held == some ⟨0x2F#32, []⟩
      && t.rsb.syncCycle == 500#32 && t.queue == []) = true := by decide

/-- SY1, the acknowledgment. -/
theorem test_sync_acknowledged :
    holds (step { holding with turns := [[.acknowledge, .finishAcknowledge]] }) (fun t => t.held == none
      && t.rsb.consumerCycle == 500#32 && t.rsb.syncCycle == sentinel && t.queue == [0x2F#32]
      && t.diagCount == ⟨0, 0, 0, 0⟩) = true := by decide

/-- SY2: the consumer is already at the target. -/
theorem test_sync_falls_back :
    holds (issued 0x00002400#32 (timed 1000 true 500)) (fun t => t.held == none && t.queue == [0x2F#32]
      && t.diagCount == ⟨0, 0, 1, 0⟩ && t.rsb.syncCycle == sentinel) = true := by decide

/-- SY6: the transfer flag aborts the wait. -/
theorem test_sync_aborts :
    holds (step { holding with turns := [[.transfer true]] }) (fun t => t.held == none
      && t.rsb.syncCycle == sentinel && t.queue == [0x2F#32] && t.diagCount == ⟨0, 0, 0, 1⟩) = true := by decide

/-- R113: TRIGGER 0 issues the stored byte with bit 7 set; RESET issues REFRESH. -/
theorem test_pseudo_operations :
    triggerLine .c0 { State.reset with io := [(0x14, 0x05#8)] } = [.store 0x14#8 0x85#8, .op 0x00001485#32]
      ∧ resetLine = [.op 0x50000000#32] ∧ writeLine 0x40#8 0xFF#8 = [.op 0x000040FF#32] := by decide

/-- R263, R266, by address: the consumer's whole writes of its own fields are its moves; a write that is not due is none. -/
theorem test_consumer_writes :
    holds (andThen (consumerMove (.write 0x1128#32 4 500#32) holding) (consumerMove (.write 0x1124#32 4 0xFFFFFFFF#32)))
        (fun t => t.rsb.consumerCycle == 500#32 && t.rsb.syncCycle == sentinel && t.consumer.acknowledging == false)
        = true
      ∧ holds (consumerMove (.write 0x112F#32 1 1#32) holding) (fun t => t.rsb.transferInProgress) = true
      ∧ consumerMove (.write 0x1120#32 4 7#32) playing = .next playing
      ∧ consumerMove (.write 0x1121#32 1 0#32) playing = .refused .partialAccess := ⟨rfl, rfl, rfl, rfl⟩

/-- R330: before the first INIT the unspecified hold is none, and an INIT is fetched. -/
theorem test_init_before_any_hold :
    holds (step { holding with started := false, stream := [.op 0x40000000#32] })
      (fun t => t.started && t.held == none && t.queue == []) = true := by decide

/-- R13: a whole field is written and read; a partial access reaches nothing; the buffer is read little-endian. -/
theorem test_memory_access :
    ((State.reset.memWrite 0x1108 2 0x7FF).bind fun t => t.memRead 0x1108 2) = some 0x7FF#32
      ∧ State.reset.memWrite 0x1108 1 0 = none ∧ State.reset.memRead 0x1124 4 = some 0xFFFFFFFF#32
      ∧ State.reset.memRead 0x1001 1 = some 0x81#32
      ∧ ((State.reset.memWrite 0x101E 2 0x1234).bind fun t => t.memRead 0x101C 4) = some 0x12348181#32
      ∧ State.reset.memRead 0x101E 4 = none := ⟨rfl, rfl, rfl, rfl, rfl, rfl⟩

/-! ## Witnesses: for each statement with hypotheses, a state and operands that meet them, clause by clause -/

/-- The host may issue an operation at reset, and the consumer makes no move. -/
theorem test_witness_ready_and_silent : State.reset.Ready ∧ State.reset.Silent := by decide

/-- The same in a state with a channel on and a word queued. -/
theorem test_witness_ready_playing : playing.Ready ∧ playing.Silent := by decide

theorem test_witness_DecodeInvertsEncode :
    WellFormed (.advance 0xFFFFFFF#28) ∧ (Instr.advance 0xFFFFFFF#28).interface = .operation
      ∧ WellFormed (.msgReserved 0x14#32) ∧ (Instr.msgReserved 0x14#32).interface = .message := by decide

theorem test_witness_EncodeInvertsDecode : decodeOperation 0xFFFFFFFF#32 = .ok (.refusedF 0xFFFFFFF#28) := rfl

theorem test_witness_RefusedWordsAreExactlyTheseOfR92 :
    State.reset.Ready ∧ State.reset.Silent ∧ runWord 0xA0000000#32 State.reset = .refused .reservedOperation
      ∧ runWord 0x9FFFFFFF#32 State.reset = .refused .mustBeZero
      ∧ runWord 0x90000001#32 State.reset = .next (after (runWord 0x90000001#32 State.reset)) :=
  ⟨by decide, by decide, rfl, rfl, rfl⟩

/-- A word that decodes, and one that does not. -/
theorem test_witness_StepRunsTheDecodedOperation :
    configAdmitted playing.cfg = true ∧ playing.held = none
      ∧ consumerTurn { { playing with stream := [.op 0x20000000#32] } with stream := [] } = .next playing
      ∧ decodeOperation 0x20000000#32 = .ok .getnext ∧ decodeOperation 0x20000001#32 = .error .mustBeZero
      ∧ playing.Silent :=
  ⟨by decide, rfl, rfl, rfl, rfl, rfl⟩

/-- The bounds of the storage, and the addresses beyond them. -/
theorem test_witness_StepStoresTheHostByte :
    (∀ a ∈ [0x0F#8, 0x10#8, 0x3F#8, 0x40#8],
        consumerTurn { { State.reset with stream := [.store a 0x55#8] } with stream := [] } = .next State.reset)
      ∧ State.reset.io.wf = true ∧ configAdmitted State.reset.cfg = true ∧ State.reset.held = none
      ∧ holds (step { State.reset with stream := [.store 0x3F#8 0x55#8] }) (fun t => t.ioByte 0x3F#8 == 0x55#8) = true
      ∧ step { State.reset with stream := [.store 0x40#8 0x55#8] } = .fault .noSuchAddress := by
  refine ⟨?_, by decide, by decide, rfl, by decide, rfl⟩
  intro a _
  rfl

/-- `playing` with an `ADVANCE` of 256 cycles as the next action. -/
def playingOn : State := { playing with stream := [.op 0x10000100#32] }

theorem test_witness_step : step playingOn = .next (after (step playingOn)) := rfl

theorem test_witness_StepKeepsTheRecordInvariants :
    TargetInv playingOn ∧ PanInv playingOn ∧ FreqInv playingOn ∧ MemoryInv playingOn := by
  refine ⟨by unfold TargetInv; decide, ?_, ?_, by unfold MemoryInv; decide⟩ <;> intro i <;> cases i <;> decide

theorem test_witness_StepKeepsTheCounterBounds : CounterInv playingOn := by
  refine ⟨?_, ?_, by decide, by decide⟩
  · intro i; cases i <;> decide
  · intro i e h
    cases i
    · obtain rfl : playing.ch0.env = e := Option.some.inj h
      decide
    · obtain rfl : playing.ch1.env = e := Option.some.inj h
      decide
    · exact absurd h (by intro k; cases k)
    · obtain rfl : playing.ch3.env = e := Option.some.inj h
      decide

theorem test_witness_StepKeepsTheCounterBounds_next : NextEventInv playingOn := by
  intro c
  cases c <;> decide

theorem test_witness_StepKeepsTheOnMask : TargetInv playingOn ∧ OnMaskInv playingOn := by
  refine ⟨by unfold TargetInv; decide, ?_⟩
  intro _ _ i
  cases i <;> decide

/-- P holds, with a word queued and one in the consumer's hand. -/
def crowded : State :=
  { holding with
    queue := [0x1F#32], consumer := ⟨some 0x2F#32, false, .idle⟩
    rsb := { holding.rsb with sentCount := 2 } }

theorem test_witness_step_crowded : step crowded = .next (after (step crowded)) := rfl

theorem test_witness_StepKeepsTheQueue : QueueInv crowded := by
  refine ⟨by decide, ?_, ?_, ?_⟩
  · intro w hw
    obtain rfl : w = 0x1F#32 := List.mem_singleton.mp hw
    decide
  · intro h e
    obtain rfl : (⟨0x2F#32, []⟩ : Held) = h := Option.some.inj e
    decide
  · intro w e
    obtain rfl : 0x2F#32 = w := Option.some.inj e
    decide

theorem test_witness_StepKeepsTheOutstandingCount : CountInv crowded := by unfold CountInv; decide

theorem test_witness_StepKeepsTheHandshakeCell : HandshakeInv playingOn ∧ HandshakeInv crowded := by
  unfold HandshakeInv; decide

theorem test_witness_EveryOperationCompletes :
    playing.Ready ∧ playing.Silent ∧ playing.SweepHalts 256#28 ∧ playing.consumerActive = false
      ∧ isReservedCode (.advance 256#28) = false ∧ isReservedCode .init = false ∧ isReservedCode .unmute = false := by
  decide

theorem test_witness_MessagesAreCounted :
    crowded.started = true ∧ crowded.consumer.dequeued = some (encode .msgMasterVolumeAll)
      ∧ Instr.msgMasterVolumeAll.interface = .message ∧ ∀ w, Instr.msgMasterVolumeAll ≠ .msgReserved w :=
  ⟨rfl, rfl, rfl, fun _ h => by cases h⟩

theorem test_witness_ReservedEncodingsStop :
    isReservedCode (.refusedA 0#28) = true ∧ messageForm 0x21#32 = none
      ∧ ({ State.reset with consumer := ⟨some 0x21#32, false, .idle⟩ } : State).consumer.dequeued = some 0x21#32 := by
  decide

/-- Before the first INIT. -/
def unstarted : State := { State.reset with started := false }

theorem test_witness_NothingRunsBeforeInit :
    unstarted.started = false ∧ configAdmitted unstarted.cfg = true ∧ isReservedCode .getnext = false
      ∧ Instr.getnext.interface = .operation ∧ Instr.getnext ≠ .init
      ∧ Instr.msgMuteAll.interface = .message ∧ WellFormed .msgMuteAll
      ∧ configAdmitted { Config.standard with queueCapacity := 0 } = false := by decide

/-- No field of 2 bytes at offset 0x33, none of 1 byte at 0x18. -/
theorem test_witness_NothingRunsBeforeInit_partial :
    configAdmitted playing.cfg = true ∧ 0x33 < 52
      ∧ (∀ f : Field, ¬(f.offset = 0x33 ∧ f.size = 2)) ∧ ∀ f : Field, ¬(f.offset = 0x18 ∧ f.size = 1) := by
  refine ⟨by decide, by decide, ?_, ?_⟩ <;> rintro f ⟨h1, h2⟩ <;> cases f <;>
    first
      | (cases h1; done)
      | (cases h2; done)
      | (rename_i i; cases i <;> cases h1)

/-- The bounds of the admitted clock. -/
theorem test_witness_LengthReloadIsR130 :
    configAdmitted { Config.standard with clockSpeed := 64 } = true
      ∧ configAdmitted { Config.standard with clockSpeed := 0x800000 } = true
      ∧ configAdmitted { Config.standard with clockSpeed := 63 } = false
      ∧ configAdmitted { Config.standard with clockSpeed := 0x800001 } = false := by decide

/-- Best-effort and gated states, for the statements that say `Sends`; the last admits no word. -/
theorem test_witness_sends :
    State.reset.BestEffort ∧ State.reset.Admits ∧ ¬({ State.reset with muted := true } : State).Audible
      ∧ (narrow 1 1).Ready ∧ ({ narrow 1 1 with rsb := { State.reset.rsb with sentCount := 1 } } : State).BestEffort
      ∧ ¬({ narrow 1 1 with rsb := { State.reset.rsb with sentCount := 1 } } : State).Admits := by decide

/-- The cycle-accurate clause of `Sends`. -/
theorem test_witness_sends_accurate :
    (timed 1000 true 499).Ready ∧ (timed 1000 true 499).Silent ∧ (timed 1000 true 499).Audible
      ∧ (timed 1000 true 499).accurateSync = true := by decide

theorem test_witness_FrequencyHighWritesWithoutTrigger :
    State.reset.Ready ∧ State.reset.Silent ∧ (0x7F#8).getLsbD 7 = false ∧ State.reset.ch2.dac = false := by decide

/-- Channel 2 with its DAC on. -/
def dacOn : State := { State.reset with ch2 := { State.reset.ch2 with dac := true } }

theorem test_witness_TriggersRestartTheChannel :
    dacOn.Ready ∧ dacOn.Silent ∧ dacOn.ch2.dac = true ∧ (0x80#8).getLsbD 7 = true := by decide

theorem test_witness_ChannelWritesFollowTheFrame :
    channelRegister (.writeFreqhi1 0x80#8) = some .c0 ∧ channelRegister (.writeEnv2 0#8) = some .c1
      ∧ channelRegister (.writeDacen3 0#8) = some .c2 ∧ channelRegister (.writePoly4 0#8) = some .c3
      ∧ admitsTrigger (.writeFreqhi1 0x80#8) State.reset = true ∧ State.reset.soundEnabled = true := by decide

theorem test_witness_ChannelWriteFrame :
    exec (.writeEnv2 0x19#8) playing = .next (after (exec (.writeEnv2 0x19#8) playing)) := rfl

theorem test_witness_RepeatedMasterWritesDoNothing :
    State.reset.Ready ∧ (0x7F#8).getLsbD 7 = State.reset.masterEnable
      ∧ ({ State.reset with masterEnable := true } : State).Ready ∧ (0x80#8).getLsbD 7 = true := by decide

theorem test_witness_MasterDisableClearsTheOnMask :
    ({ playing with masterEnable := true } : State).Ready ∧ ({ playing with masterEnable := true } : State).Silent
      ∧ (0x7F#8).getLsbD 7 = false := by decide

/-- The storage of the witness of the resync: channel 0 plays, and the stored master bit is set. -/
def stored : State := { playing with io := [(0x14, 0x84#8), (0x26, 0x80#8)] }

theorem test_witness_ResyncReplaysTheHostStorage :
    stored.Ready ∧ stored.Silent ∧ stored.NeverHolds ∧ MemoryInv stored ∧ stored.masterEnable = false
      ∧ (0x80#8).getLsbD 7 = true ∧ ({ stored with accurateSync := true, muted := true } : State).NeverHolds := by
  unfold MemoryInv; decide

theorem test_witness_WaveWritesConvertOneByte : State.reset.Ready ∧ State.reset.sampleBuf.wf = true := by decide

/-- One firing (the counter at 200, 256 cycles), and none (199 cycles). -/
theorem test_witness_SweepStepsTheFrequency :
    exec (.advance 256#28) playing = .next (after (exec (.advance 256#28) playing))
      ∧ playing.ch0.voice.on = true ∧ playing.ch0.sweep.time ≠ 0#3
      ∧ Fires (playing.ch0.sweep.counter - (256#28).toNat)
          (playing.cfg.clockSpeed / (128 / playing.ch0.sweep.time.toNat) : Nat) 1
      ∧ (∀ k ≤ 1, sweptAfter playing k ≤ 0x7FF)
      ∧ Fires (playing.ch0.sweep.counter - (199#28).toNat)
          (playing.cfg.clockSpeed / (128 / playing.ch0.sweep.time.toNat) : Nat) 0 := by
  refine ⟨rfl, by decide, by decide, ⟨by decide, ?_⟩, by decide, ⟨by decide, ?_⟩⟩ <;> intro k hk
  · obtain rfl : k = 0 := by omega
    decide
  · omega

/-- Channel 0 one step from its overflow. -/
def nearOverflow : State := { playing with ch0 := { playing.ch0 with freq := 0x600 } }

theorem test_witness_SweepOverflowSwitchesTheChannelOff :
    exec (.advance 256#28) nearOverflow = .next (after (exec (.advance 256#28) nearOverflow))
      ∧ (∀ k ≤ 0, sweptAfter nearOverflow k ≤ 0x7FF) ∧ 0x7FF < sweptAfter nearOverflow 1
      ∧ nearOverflow.ch0.sweep.counter - ((256#28).toNat : Int) ≤ 0 ∧ nearOverflow.ch0.voice.on = true
      ∧ nearOverflow.ch0.sweep.time ≠ 0#3 := by
  refine ⟨rfl, ?_, by decide, by decide, by decide, by decide⟩
  intro k hk
  obtain rfl : k = 0 := by omega
  decide

/-- The same after one step that does not overflow: 0x400, 0x600, 0x900. -/
theorem test_witness_SweepOverflowSwitchesTheChannelOff_later :
    exec (.advance 40000#28) playing = .next (after (exec (.advance 40000#28) playing))
      ∧ (∀ k ≤ 1, sweptAfter playing k ≤ 0x7FF) ∧ 0x7FF < sweptAfter playing 2
      ∧ playing.ch0.sweep.counter - ((40000#28).toNat : Int)
          + 1 * (playing.cfg.clockSpeed / (128 / playing.ch0.sweep.time.toNat) : Nat) ≤ 0 :=
  ⟨rfl, by decide, by decide, by decide⟩

/-- A sweep period of 0: the clock at its lower bound. -/
def slowClock (down : Bool) (freq : BitVec 12) : State :=
  { State.reset with
    cfg := { Config.standard with clockSpeed := 64 }
    ch0 := { State.reset.ch0 with voice := ⟨true, false, 0, 0⟩, sweep := ⟨1, down, 0, 0⟩, freq := freq } }

/-- Downwards, and upwards with a step of 0. -/
theorem test_witness_AnEndlessSweepStops :
    ∀ s ∈ [slowClock true 0x7FF, slowClock false 0],
      s.Ready ∧ s.ch0.voice.on = true ∧ ¬s.SweepEnds ∧ s.ch0.sweep.counter - ((0#28).toNat : Int) ≤ 0
        ∧ s.ch0.freq.toNat ≤ 0x7FF
        ∧ (s.ch0.sweep.down = true ∨ s.ch0.freq.toNat >>> s.ch0.sweep.shift.toNat = 0) := by decide

/-- A slow clock whose sweep overflows all the same runs. -/
theorem test_witness_slow_sweep_overflows :
    holds (exec (.advance 0#28) (slowClock false 1)) (fun t => !t.ch0.voice.on && t.ch0.freq == 0x800#12) = true := by
  decide

theorem test_witness_EnvelopeStepsTheVolume :
    exec (.advance 500#28) playing = .next (after (exec (.advance 500#28) playing))
      ∧ (playing.voice .c0).on = true ∧ playing.env .c0 = some playing.ch0.env ∧ playing.ch0.env.period ≠ 0#3
      ∧ playing.ch0.freq.toNat ≤ 0x7FF ∧ (after (exec (.advance 500#28) playing)).ch0.freq.toNat ≤ 0x7FF
      ∧ Fires (playing.ch0.env.counter - (500#28).toNat)
          (playing.ch0.env.period.toNat * playing.cfg.clockSpeed / 64 : Nat) 1 := by
  refine ⟨rfl, rfl, rfl, by decide, by decide, by decide, by decide, ?_⟩
  intro k hk
  obtain rfl : k = 0 := by omega
  decide

/-- The length counter at 1000: 999 cycles leave the channel on, 1000 switch it off. -/
theorem test_witness_LengthExpirySwitchesTheChannelOff :
    exec (.advance 999#28) playing = .next (after (exec (.advance 999#28) playing))
      ∧ exec (.advance 1000#28) playing = .next (after (exec (.advance 1000#28) playing))
      ∧ (playing.voice .c0).on = true ∧ playing.ch0.freq.toNat ≤ 0x7FF
      ∧ (after (exec (.advance 1000#28) playing)).ch0.freq.toNat ≤ 0x7FF :=
  ⟨rfl, rfl, rfl, by decide, by decide⟩

theorem test_witness_advance :
    exec (.advance 256#28) playing = .next (after (exec (.advance 256#28) playing))
      ∧ exec (.advance 256#28) State.reset = .next (after (exec (.advance 256#28) State.reset))
      ∧ playing.soundEnabled = true ∧ playing.ch0.freq.toNat ≤ 0x7FF
      ∧ ∀ c : Chan, (State.reset.voice c).on = false :=
  ⟨rfl, rfl, rfl, by decide, fun c => by cases c <;> rfl⟩

/-- With a period of 0: channel off, sweep not due, sweep rising. -/
theorem test_witness_sweep_halts :
    ∀ s ∈ [{ slowClock true 0x7FF with ch0 := { (slowClock true 0x7FF).ch0 with voice := ⟨false, false, 0, 0⟩ } },
        { slowClock true 0x7FF with ch0 := { (slowClock true 0x7FF).ch0 with sweep := ⟨1, true, 0, 6⟩ } },
        slowClock false 1], ¬s.SweepEnds ∧ s.SweepHalts 5#28 ∧ s.Ready ∧ s.Silent := by decide

/-- Both clauses: 256 cycles change a frequency, 5 change nothing. -/
theorem test_witness_AdvanceSendsWhenSomethingChanged :
    playing.Ready ∧ playing.Silent ∧ playing.SweepHalts 256#28 ∧ playing.SweepHalts 5#28
      ∧ (after (exec (.advance 256#28) playing)).params .c0 ≠ playing.params .c0
      ∧ (after (exec (.advance 5#28) playing)).params .c0 = playing.params .c0 := by decide

/-- 199 cycles are one below the soonest timer. -/
theorem test_witness_AdvanceBelowTheNextEventIsQuiet :
    playing.Ready ∧ (NextEventInv playing ∧ ((199#28).toNat : Int) < playing.nextEvent)
      ∧ ∀ c, ∀ n ∈ runningCounters c playing, ((199#28).toNat : Int) < n := by
  refine ⟨by decide, ⟨?_, by decide⟩, ?_⟩ <;> intro c <;> cases c <;> decide

theorem test_witness_SplittingASliceKeepsTheRecord :
    (100#28).toNat + (156#28).toNat < 2 ^ 28
      ∧ exec (.advance 100#28) playing = .next (after (exec (.advance 100#28) playing))
      ∧ exec (.advance 156#28) (after (exec (.advance 100#28) playing))
          = .next (after (exec (.advance 156#28) (after (exec (.advance 100#28) playing))))
      ∧ exec (.advance (100#28 + 156#28)) playing = .next (after (exec (.advance (100#28 + 156#28)) playing))
      ∧ (after (exec (.advance 156#28) (after (exec (.advance 100#28) playing)))).ch0.voice.on = true :=
  ⟨by decide, rfl, rfl, rfl, rfl⟩

/-- The first INIT, and a later one. -/
theorem test_witness_InitGivesTheResetValues :
    configAdmitted unstarted.cfg = true ∧ unstarted.started = false ∧ playing.started = true ∧ playing.held = none
      ∧ playing.consumerActive = false
      ∧ holding.started = true ∧ holding.held ≠ none
      ∧ ∀ c ∈ [(⟨some 0x1F#32, false, .idle⟩ : Consumer), ⟨none, true, .idle⟩, ⟨none, false, .clearProgress⟩],
          ({ playing with consumer := c } : State).started = true ∧ ({ playing with consumer := c } : State).held = none
            ∧ (c.dequeued ≠ none ∨ c.acknowledging = true ∨ c.flipStage ≠ .idle) := by decide

/-- P muted. -/
def mutedState : State := { playing with muted := true, target := .dummy }

theorem test_witness_MuteRedirectsToTheDummyBlock :
    playing.Ready ∧ playing.Silent ∧ playing.muted = false ∧ playing.soundEnabled = true ∧ mutedState.Ready
      ∧ ({ playing with soundEnabled := false } : State).Ready := by decide

theorem test_witness_UnmuteAndEnableRefresh :
    mutedState.Ready ∧ mutedState.Silent ∧ mutedState.muted = true ∧ mutedState.accurateSync = false
      ∧ ({ playing with soundEnabled := false } : State).Ready ∧ playing.muted = false
      ∧ ({ mutedState with soundEnabled := false, accurateSync := true } : State).Ready
      ∧ ({ playing with muted := false } : State).NeverHolds := by decide

/-- The clauses of `SendsAll`: best effort, and a closed gate. -/
theorem test_witness_sends_all :
    stored.BestEffort ∧ ¬mutedState.Audible
      ∧ enqueueAll [0x2F#32, 0x1F#32] stored = .next (after (enqueueAll [0x2F#32, 0x1F#32] stored)) :=
  ⟨by decide, by decide, rfl⟩

/-- Two words sent and none counted, with `words` of them queued. -/
def twoSent (threshold capacity words : Nat) : State :=
  { narrow threshold capacity with
    queue := List.replicate words 0x2F#32, rsb := { State.reset.rsb with sentCount := 2 } }

/-- Outstanding at the threshold; below it with the queue full; below both. -/
theorem test_witness_EnqueueAdmission :
    (∀ s ∈ [twoSent 2 4 2, twoSent 3 2 2, twoSent 3 2 1], s.Silent)
      ∧ (twoSent 2 4 2).cfg.dropThreshold ≤ ((twoSent 2 4 2).rsb.sentCount - (twoSent 2 4 2).rsb.recvCount).toNat
      ∧ (∀ s ∈ [twoSent 3 2 2, twoSent 3 2 1], (s.rsb.sentCount - s.rsb.recvCount).toNat < s.cfg.dropThreshold)
      ∧ (twoSent 3 2 2).queue.length = (twoSent 3 2 2).cfg.queueCapacity
      ∧ (twoSent 3 2 1).queue.length ≠ (twoSent 3 2 1).cfg.queueCapacity := by decide

theorem test_witness_BestEffortNeverHoldsP :
    playing.soundEnabled = true ∧ playing.muted = false ∧ playing.accurateSync = false
      ∧ send .start (.one .c0) playing = .next (after (send .start (.one .c0) playing))
      ∧ exec (.writeMastervol 0x77#8) playing = .next (after (exec (.writeMastervol 0x77#8) playing)) :=
  ⟨rfl, rfl, rfl, rfl, rfl⟩

/-- The consumer one cycle behind the target, and at it; the unrepresentable target; the transfer flag up. -/
theorem test_witness_SyncSendDecides :
    (timed 1000 true 499).Silent ∧ (timed 1000 true 499).Audible ∧ (timed 1000 true 499).accurateSync = true
      ∧ (timed 1000 true 499).draw = ⟨1000, true⟩ ∧ (1000#32 >>> 1 : Word) = 500#32
      ∧ ¬((500#32 : Word) ≤ (timed 1000 true 499).rsb.consumerCycle) ∧ (500#32 : Word) ≤ (timed 1000 true 500).rsb.consumerCycle
      ∧ (timed 0xFFFFFFFF false 0).draw.cyclesSinceFrame = 0xFFFFFFFF#32
      ∧ (timed 1000 true 499).rsb.flipInProgress = false ∧ (timed 1000 true 499).rsb.transferInProgress = false
      ∧ (timed 1000 true 499).rsb.producerFlip = (timed 1000 true 499).rsb.consumerFlip
      ∧ ({ timed 1000 true 499 with rsb := { (timed 1000 true 499).rsb with transferInProgress := true } } : State).Silent :=
  by decide

/-- `holding` with the given handshake cell and the transfer flag up. -/
def interrupted (cell : Word) : State :=
  { holding with rsb := { holding.rsb with syncCycle := cell, transferInProgress := true } }

/-- No sign of C; the acknowledgment with the flag up as well; the flag alone. -/
theorem test_witness_TheWaitHoldsAndEnds :
    configAdmitted holding.cfg = true ∧ holding.started = true ∧ holding.held = some ⟨0x2F#32, []⟩
      ∧ consumerTurn holding = .next holding
      ∧ holding.rsb.syncCycle ≠ 0xFFFFFFFF#32 ∧ holding.rsb.transferInProgress = false
      ∧ (∀ s ∈ [interrupted 0xFFFFFFFF, interrupted 0xFFFFFFFE], s.Silent ∧ s.held = some ⟨0x2F#32, []⟩)
      ∧ consumerTurn (interrupted 0xFFFFFFFE) = .next (interrupted 0xFFFFFFFE)
      ∧ (interrupted 0xFFFFFFFF).rsb.syncCycle = 0xFFFFFFFF#32
      ∧ (interrupted 0xFFFFFFFE).rsb.syncCycle ≠ 0xFFFFFFFF#32
      ∧ (interrupted 0xFFFFFFFE).rsb.transferInProgress = true :=
  ⟨by decide, rfl, rfl, rfl, by decide, rfl, by decide, rfl, rfl, by decide, rfl⟩

/-- C acknowledges in the step's own turn, or raises the flag there, which is how a run reaches the two ends. -/
theorem test_witness_TheWaitHoldsAndEnds_turn (m : List ConsumerMove)
    (hm : m = [.acknowledge, .finishAcknowledge] ∨ m = [.transfer true]) :
    ∃ u, consumerTurn { holding with turns := [m] } = .next u ∧ u.Silent
      ∧ (if m = [.transfer true] then u.rsb.syncCycle = 500#32 ∧ u.rsb.transferInProgress = true
         else u.rsb.syncCycle = 0xFFFFFFFF#32) := by
  rcases hm with rfl | rfl <;> exact ⟨_, rfl, rfl, by decide⟩

/-- A task that leaves P free, and one that leaves it holding. -/
theorem test_witness_TheWaitHoldsAndEnds_tasks :
    runTask (.bulk 0x24#8) playing = .next (after (runTask (.bulk 0x24#8) playing))
      ∧ (after (runTask (.bulk 0x24#8) playing)).held = none
      ∧ runTask (.bulk 0x24#8) (timed 1000 true 499) = .next (after (runTask (.bulk 0x24#8) (timed 1000 true 499)))
      ∧ (after (runTask (.bulk 0x24#8) (timed 1000 true 499))).held = some ⟨0x2F#32, []⟩ :=
  ⟨rfl, rfl, rfl, rfl⟩

/-- The consumer in its frame flip. -/
def flipping : State := { playing with rsb := { playing.rsb with flipInProgress := true } }

theorem test_witness_ConsumerMovesFollowTheirRules :
    playing.consumer.dequeued = none ∧ playing.queue = [0x00#32]
      ∧ holding.consumer.acknowledging = false ∧ holding.rsb.syncCycle ≠ 0xFFFFFFFF#32
      ∧ playing.rsb.flipInProgress = false
      ∧ flipping.rsb.flipInProgress = true ∧ flipping.consumer.flipStage = .idle
      ∧ crowded.consumer.dequeued = some 0x2F#32 ∧ IsForm 0x2F#32 ∧ State.reset.queue = []
      ∧ playing.rsb.syncCycle = 0xFFFFFFFF#32 ∧ configAdmitted playing.cfg = true
      ∧ ({ flipping with consumer := ⟨none, true, .clearProgress⟩ } : State).consumer.flipStage = .clearProgress
      ∧ ({ flipping with consumer := ⟨none, true, .clearProgress⟩ } : State).consumer.acknowledging = true
      ∧ ({ flipping with consumer := ⟨none, false, .clearCycle⟩ } : State).consumer.flipStage = .clearCycle := by
  decide

/-- A turn of the consumer while P holds. -/
def moving : State := { holding with turns := [[.acknowledge, .finishAcknowledge, .flipBegin]] }

/-- A consumer turn and a byte that is not the consumer's; an operation; a producer field and the ends of the others. -/
theorem test_witness_EveryFieldHasItsOneWriter :
    consumerTurn moving = .next (after (consumerTurn moving))
    ∧ inField holding.cfg.rsbAddr .message 0x1118 ∧ ¬inField holding.cfg.rsbAddr .syncCycle 0x1118
    ∧ ¬inConsumerField holding 0x1118
    ∧ exec .getnext playing = .next (after (exec .getnext playing)) ∧ playing.Silent
    ∧ configAdmitted playing.cfg = true ∧ Field.owner .sampleBufPtr = .producer
    ∧ consumerMove (.write (playing.cfg.dsbAddr + 51#32) 1 0) playing = .fault .wrongWriter
    ∧ consumerMove (.write (playing.cfg.sampleBufAddr + 31#32) 1 0) playing = .fault .wrongWriter :=
  ⟨rfl, by decide, by decide, by unfold inConsumerField; decide, rfl, rfl, by decide, rfl, rfl, rfl⟩

theorem test_witness_BlocksAreLaidOutAsR64 :
    configAdmitted playing.cfg = true ∧ 3 < Field.size .sampleBufPtr ∧ 0 < Field.size .onMask ∧ 31 < 32
      ∧ playing.memByte (playing.cfg.rsbAddr.toNat + 0x33) = some 0x00#8
      ∧ playing.memByte (playing.cfg.rsbAddr.toNat + 0x34) = none := by decide

theorem test_witness_ClosedGatesLeaveTheSharedState :
    exec (.writeFreqhi1 0x80#8) mutedState = .next (after (exec (.writeFreqhi1 0x80#8) mutedState))
      ∧ mutedState.muted = true ∧ mutedState.target = .dummy ∧ (Instr.writeFreqhi1 0x80#8).interface = .operation
      ∧ exec (.advance 256#28) { playing with soundEnabled := false }
          = .next (after (exec (.advance 256#28) { playing with soundEnabled := false })) :=
  ⟨rfl, rfl, rfl, rfl, rfl⟩

/-- Channel 2 on, with its DAC on. -/
def waveOn : State := { dacOn with ch2 := { dacOn.ch2 with voice := ⟨true, false, 0, 0⟩ } }

/-- A trigger; a length expiry; a DAC-off write; a resync that replays one; an INIT. -/
theorem test_witness_OnFlagsChangeOnlyByTheseRules :
    (State.reset.voice .c3).on = false
      ∧ ((after (exec (.writeTrig4 0x80#8) State.reset)).voice .c3).on = true
      ∧ ((after (exec (.advance 1000#28) playing)).voice .c0).on = false
      ∧ (waveOn.voice .c2).on = true ∧ ((after (exec (.writeDacen3 0#8) waveOn)).voice .c2).on = false
      ∧ ((after (exec .refresh waveOn)).voice .c2).on = false
      ∧ ((after (exec .init waveOn)).voice .c2).on = false := by decide

end Sys2Proof.Tests
end

section
/-! The fetch of the host's next word (R8): one equation per function on the way from `step` to `exec`. -/

namespace Sys2Proof.Machine

/-- A word that decodes runs its instruction. -/
theorem runWord_ok {w : Word} {i : Instr} (hw : decodeOperation w = .ok i) (s : State) :
    runWord w s = exec i s := by
  rw [runWord, hw]

/-- R92 (b): the decoder has one error, the must-be-zero field, and its word is refused. -/
theorem runWord_error {w : Word} {e : DecodeError} (hw : decodeOperation w = .error e) (s : State) :
    runWord w s = .refused .mustBeZero := by
  cases e
  rw [runWord, hw]

/-- In an admitted configuration, and while P does not hold, a step is the host's (R8, R343). -/
theorem step_eq_hostStep {s : State} (hc : configAdmitted s.cfg = true) (hh : s.held = none) :
    step s = hostStep s := by
  simp [step, nextAction, hc, hh]

/-- The host's word runs in the state that the consumer's opportunity leaves. -/
theorem hostStep_op {s u : State} {w : Word} {rest : List HostAction} (hs : s.stream = .op w :: rest)
    (hu : consumerTurn { s with stream := rest } = .next u) : hostStep s = runWord w u := by
  simp only [hostStep, hs, hu, andThen_next]

/-- A consumer with no move listed leaves the state as the fetch made it. -/
theorem consumerTurn_fetched_silent {s u : State} {rest : List HostAction} (ht : s.Silent)
    (hu : consumerTurn { s with stream := rest } = .next u) : u = { s with stream := rest } := by
  have hsilent : consumerTurn { s with stream := rest } = .next { s with stream := rest } :=
    consumerTurn_silent ht
  exact Host.Outcome.next.inj (hu.symm.trans hsilent)

/-- Settles O5: the step is the host's, its word runs after the consumer's opportunity, and the decoder's two answers are
the two cases of `runWord`. -/
theorem stepRunsTheDecodedOperation : Obligations.StepRunsTheDecodedOperation := by
  intro s u w rest hc hh hs hu
  have hstep : step s = runWord w u := (step_eq_hostStep hc hh).trans (hostStep_op hs hu)
  refine ⟨fun i hi => ?decodes, fun e he => ?rejected, fun ht => consumerTurn_fetched_silent ht hu⟩
  case decodes => rw [hstep, runWord_ok hi]
  case rejected => rw [hstep, runWord_error he]

end Sys2Proof.Machine
end

section
/-! SUPPORT. What a part of ADVANCE does to a record (R200 to R208), said once for relations that look into the records:
counters move, volumes move, a sweep step stores a frequency or switches channel 0 off, a channel is switched off. -/

namespace Sys2Proof.Machine

/-! ### The records after the updates of the passes -/

theorem setOn_voice (i j : Chan) (b : Bool) (s : State) :
    (setOn i b s).voice j = if j = i then { s.voice i with on := b } else s.voice j :=
  setVoice_voice s i j _

@[simp] theorem setOn_freq (i j : Chan) (b : Bool) (s : State) : (setOn i b s).freq j = s.freq j :=
  setVoice_freq s i j _

/-- Switching a channel off changes the on flag of its voice and no other voice (R204, R208). -/
theorem switchOff_voice (i j : Chan) (p : Slice) :
    (switchOff i p).state.voice j
      = if j = i then { p.state.voice i with on := false } else p.state.voice j := by
  simp [switchOff, setOn_voice]

@[simp] theorem switchOff_freq (i j : Chan) (p : Slice) : (switchOff i p).state.freq j = p.state.freq j := by
  simp [switchOff]

@[simp] theorem sweepElapse_voice (e : Int) (j : Chan) (s : State) : (sweepElapse e s).voice j = s.voice j := by
  cases j <;> rfl

@[simp] theorem sweepElapse_freq (e : Int) (j : Chan) (s : State) : (sweepElapse e s).freq j = s.freq j := by
  cases j <;> rfl

@[simp] theorem sweepStored_voice (j : Chan) (s : State) : (sweepStored s).voice j = s.voice j := by
  cases j <;> rfl

theorem sweepStored_freq_other {j : Chan} (hj : j ≠ .c0) (s : State) : (sweepStored s).freq j = s.freq j := by
  cases j
  case c0 => exact absurd rfl hj
  all_goals rfl

/-- The frequency that a sweep step leaves (R203). -/
abbrev sweptTo (s : State) : Nat := sweptFreq s.ch0.freq s.ch0.sweep.shift s.ch0.sweep.down

/-- A sweep step overflows and switches channel 0 off (R204), or it commits a frequency of 11 bits (R203). -/
theorem sweepStep_cases (p : Slice) :
    (0x7FF < sweptTo p.state ∧ sweepStep p = switchOff .c0 { p with state := sweepStored p.state })
    ∨ (sweptTo p.state ≤ 0x7FF ∧ (sweepStep p).state =
        commit (.freq .c0) (((sweepStored p.state).freq .c0).setWidth 32) (sweepStored p.state)) := by
  by_cases h : 0x7FF < sweptTo p.state
  · exact .inl ⟨h, if_pos h⟩
  · exact .inr ⟨Nat.not_lt.mp h, congrArg Slice.state (if_neg h)⟩

/-! ### What every such update respects, ADVANCE respects -/

/-- A preorder on states that the updates of `ADVANCE` respect, each with what it does to a record. -/
structure SliceClosed (R : State → State → Prop) : Prop where
  refl      : ∀ s, R s s
  trans     : ∀ {s t u}, R s t → R t u → R s u
  minimum   : ∀ (n : Int) (s : State), R s { s with nextEvent := n }
  length    : ∀ (i : Chan) (n : Int) (s : State), R s (setVoice i { s.voice i with lenCounter := n } s)
  envelope  : ∀ {i v} (w : BitVec 4) (n : Int) (s : State), s.env i = some v →
    R s (setEnv i { v with vol := w, counter := n } s)
  volume    : ∀ (i : Chan) (v : Word) (s : State), R s (commit (.vol i) v s)
  elapsed   : ∀ (e : Int) (s : State), R s (sweepElapse e s)
  swept     : ∀ p : Slice, R p.state (sweepStep p).state
  off       : ∀ (i : Chan) (p : Slice), R p.state (switchOff i p).state

section Closed

variable {R : State → State → Prop} (C : SliceClosed R)
include C

theorem SliceClosed.sweepLoop (n : Nat) : ∀ p : Slice, R p.state (sweepLoop n p).state := by
  induction n with
  | zero => intro p; exact C.refl _
  | succ n ih =>
    intro p
    rw [Machine.sweepLoop]
    split
    · exact C.trans (C.swept p) (ih _)
    · exact C.refl _

theorem SliceClosed.sweepPass (e : Int) (p : Slice) : R p.state (sweepPass e p).state := by
  have report (q : Slice) : R q.state (sweepReport q).state := by
    unfold sweepReport
    split
    · exact C.minimum _ _
    · exact C.refl _
  unfold Machine.sweepPass
  split
  · exact C.trans (C.elapsed e p.state)
      (C.trans (C.sweepLoop _ { p with state := sweepElapse e p.state }) (report _))
  · exact C.refl _

theorem SliceClosed.envelopeStep {i : Chan} {v : Envelope} {p : Slice} (hv : p.state.env i = some v) :
    R p.state (envelopeStep i v p).state := by
  unfold Machine.envelopeStep
  dsimp only
  split
  · exact C.trans (C.envelope _ _ p.state hv) (C.volume i _ _)
  · exact C.envelope _ _ p.state hv

theorem SliceClosed.envelopeLoop (i : Chan) (n : Nat) : ∀ p : Slice, R p.state (envelopeLoop i n p).state := by
  induction n with
  | zero => intro p; exact C.refl _
  | succ n ih =>
    intro p
    rw [Machine.envelopeLoop]
    split
    · next v hv =>
      split
      · exact C.trans (C.envelopeStep hv) (ih _)
      · exact C.refl _
    · exact C.refl _

theorem SliceClosed.envelopePass (e : Int) (i : Chan) (p : Slice) : R p.state (envelopePass e i p).state := by
  have report (q : Slice) : R q.state (envelopeReport i q).state := by
    unfold envelopeReport
    split
    · exact C.minimum _ _
    · exact C.refl _
  unfold Machine.envelopePass
  split
  · next v hv =>
    split
    · exact C.trans (C.envelope v.vol (v.counter - e) p.state hv)
        (C.trans (C.envelopeLoop i _ { p with state := setEnv i { v with counter := v.counter - e } p.state })
          (report _))
    · exact C.refl _
  · exact C.refl _

theorem SliceClosed.lengthPass (e : Int) (i : Chan) (p : Slice) : R p.state (lengthPass e i p).state := by
  have counted := C.length i ((p.state.voice i).lenCounter - e) p.state
  unfold Machine.lengthPass
  dsimp only
  split
  · split
    · exact C.trans counted (C.off i ⟨_, p.changed⟩)
    · exact C.trans counted (C.minimum _ _)
  · exact C.refl _

/-- What every update of a slice respects, the three passes respect. -/
theorem SliceClosed.advancePasses (e : Int) (s : State) : R s (advancePasses e s).state :=
  C.trans (C.minimum noEvent s) <| C.trans (C.sweepPass e ⟨{ s with nextEvent := noEvent }, false⟩) <|
  C.trans (C.envelopePass e .c0 _) <| C.trans (C.envelopePass e .c1 _) <| C.trans (C.envelopePass e .c3 _) <|
  C.trans (C.lengthPass e .c0 _) <| C.trans (C.lengthPass e .c1 _) <| C.trans (C.lengthPass e .c2 _)
    (C.lengthPass e .c3 _)

end Closed

end Sys2Proof.Machine
end

section
/-! The invariants of the records (R22, R24, R33, R47, R60), each kept by every step. -/

namespace Sys2Proof.Machine

/-! ### The part of the state that these invariants read -/

/-- The configuration, the records, the mute state, the routing byte and the byte memories. -/
structure Ledger where
  cfg       : Config
  ch0       : SweptSquare
  ch1       : Square
  ch2       : WaveChannel
  ch3       : NoiseChannel
  target    : Target
  muted     : Bool
  routing   : Byte
  io        : Memory
  sampleBuf : Memory

/-- The ledger of a state. -/
def State.ledger (s : State) : Ledger :=
  ⟨s.cfg, s.ch0, s.ch1, s.ch2, s.ch3, s.target, s.muted, s.routing, s.io, s.sampleBuf⟩

theorem ledger_of_recordSide {s t : State} (h : recordSide t = recordSide s) : t.ledger = s.ledger :=
  congrArg State.ledger (a₁ := recordSide t) (a₂ := recordSide s) h

@[simp] theorem ledger_commit (f : Field) (v : Word) (s : State) : (commit f v s).ledger = s.ledger := by
  simp [State.ledger]

section Ledger

variable {s t : State} (h : t.ledger = s.ledger)
include h

theorem ledger_cfg : t.cfg = s.cfg := congrArg Ledger.cfg h
theorem ledger_target : t.target = s.target := congrArg Ledger.target h
theorem ledger_muted : t.muted = s.muted := congrArg Ledger.muted h
theorem ledger_routing : t.routing = s.routing := congrArg Ledger.routing h
theorem ledger_io : t.io = s.io := congrArg Ledger.io h
theorem ledger_sampleBuf : t.sampleBuf = s.sampleBuf := congrArg Ledger.sampleBuf h

theorem ledger_channels : ChannelsKept s t :=
  ⟨congrArg Ledger.ch0 h, congrArg Ledger.ch1 h, congrArg Ledger.ch2 h, congrArg Ledger.ch3 h⟩

theorem ledger_voice (i : Chan) : t.voice i = s.voice i := by
  obtain ⟨h0, h1, h2, h3⟩ := ledger_channels h
  cases i <;> simp [State.voice, h0, h1, h2, h3]

theorem ledger_freq (i : Chan) : t.freq i = s.freq i := by
  obtain ⟨h0, h1, h2, h3⟩ := ledger_channels h
  cases i <;> simp [State.freq, h0, h1, h2, h3]

end Ledger

/-! ### A register body and its trigger -/

theorem localUpdate_rest {c : Chan} {body : State → State × Bool} (hb : RegisterBody c body) (s : State) :
    restSide (localUpdate c (body s)) = restSide s := by
  unfold localUpdate
  split
  · exact (restSide_triggerLocal _ _).trans (hb.kept s).1
  · exact (hb.kept s).1

/-- The commits and the reports of a channel write leave the ledger as the body and its trigger made it (R121). -/
theorem channelUpdate_ledger {c : Chan} {body : State → State × Bool} (hb : RegisterBody c body) (on : Bool)
    (s : State) : (channelUpdate c on (body s)).ledger = (localUpdate c (body s)).ledger := by
  obtain ⟨h0, h1, h2, h3⟩ := channelUpdate_records c on (body s)
  have hr : restSide (channelUpdate c on (body s)) = restSide (localUpdate c (body s)) :=
    (channelUpdate_rest hb on s).trans (localUpdate_rest hb s).symm
  simp only [State.ledger, h0, h1, h2, h3, restSide_cfg hr, restSide_target hr, restSide_muted hr,
    restSide_routing hr, restSide_io hr, restSide_sampleBuf hr]

/-- No body and no trigger changes a pan (R24). -/
theorem localUpdate_pan {c : Chan} {body : State → State × Bool} (hb : RegisterBody c body) (s : State) (j : Chan) :
    ((localUpdate c (body s)).voice j).pan = (s.voice j).pan := by
  have trigger (u : State) : ((triggerLocal c u).voice j).pan = (u.voice j).pan := by
    cases c <;> cases j <;> rfl
  have bodyPan : ((body s).1.voice j).pan = (s.voice j).pan := by
    cases hb <;> cases j <;> rfl
  unfold localUpdate
  split
  · exact (trigger _).trans bodyPan
  · exact bodyPan

theorem OtherChannelsKept.voice {c j : Chan} {s t : State} (h : OtherChannelsKept c s t) (hj : j ≠ c) :
    t.voice j = s.voice j := by
  obtain ⟨h0, h1, h2, h3⟩ := h
  cases j with
  | c0 => exact congrArg SweptSquare.voice (h0 hj.symm)
  | c1 => exact congrArg Square.voice (h1 hj.symm)
  | c2 => exact congrArg WaveChannel.voice (h2 hj.symm)
  | c3 => exact congrArg NoiseChannel.voice (h3 hj.symm)

theorem OtherChannelsKept.freq {c j : Chan} {s t : State} (h : OtherChannelsKept c s t) (hj : j ≠ c) :
    t.freq j = s.freq j := by
  obtain ⟨h0, h1, h2, h3⟩ := h
  cases j with
  | c0 => simp only [State.freq, h0 hj.symm]
  | c1 => simp only [State.freq, h1 hj.symm]
  | c2 => simp only [State.freq, h2 hj.symm]
  | c3 => simp only [State.freq, h3 hj.symm]

/-- A voice other than the written channel's is as before. -/
theorem localUpdate_voice_other {c j : Chan} {body : State → State × Bool} (hb : RegisterBody c body) (s : State)
    (hj : j ≠ c) : (localUpdate c (body s)).voice j = s.voice j :=
  (channelUpdate_voice c true (body s) j).symm.trans ((channelUpdate_others hb true s).voice hj)

@[simp] theorem triggerLocal_freq (c j : Chan) (s : State) : (triggerLocal c s).freq j = s.freq j := by
  cases c <;> cases j <;> rfl

theorem localUpdate_freq (c j : Chan) (r : State × Bool) : (localUpdate c r).freq j = r.1.freq j := by
  unfold localUpdate
  split
  · exact triggerLocal_freq c j r.1
  · rfl

/-- A channel is on after a body and its trigger only when the write was a trigger or the channel was on before. -/
theorem localUpdate_on {c j : Chan} {body : State → State × Bool} (hb : RegisterBody c body) {s : State}
    (hon : ((localUpdate c (body s)).voice j).on = true) :
    (j = c ∧ (body s).2 = true) ∨ (s.voice j).on = true := by
  by_cases hj : j = c
  · subst hj
    cases ht : (body s).2 with
    | true => exact .inl ⟨rfl, rfl⟩
    | false => exact .inr (hb.on s (by simpa [localUpdate, ht] using hon))
  · exact .inr (localUpdate_voice_other hb s hj ▸ hon)

/-! ### Frequencies of 11 bits (R22) -/

/-- A frequency-low write leaves 11 bits (R124). -/
theorem withFreqLow_le (f : BitVec 12) (d : Byte) : ((withFreqLow f d).setWidth 16).toNat ≤ 0x7FF := by
  have hf : f.toNat &&& 0x700 < 2 ^ 11 := Nat.and_lt_two_pow _ (by decide)
  have hd : d.toNat < 2 ^ 11 := by have := d.isLt; omega
  have hor := Nat.or_lt_two_pow hf hd
  simp only [withFreqLow, BitVec.toNat_setWidth, BitVec.toNat_or, BitVec.toNat_and, BitVec.toNat_ofNat]
  rw [Nat.mod_eq_of_lt (a := d.toNat) (by omega)]
  simp only [Nat.reducePow, Nat.reduceMod] at hor ⊢
  omega

/-- A frequency-high write leaves 11 bits (R125). -/
theorem withFreqHigh_le (f : BitVec 12) (d : Byte) : ((withFreqHigh f d).setWidth 16).toNat ≤ 0x7FF := by
  have hf : f.toNat &&& 0xFF < 2 ^ 11 := Nat.and_lt_two_pow _ (by decide)
  have hd : (freqHighOf d).toNat <<< 8 < 2 ^ 11 := by
    have := (freqHighOf d).isLt
    rw [Nat.shiftLeft_eq]; omega
  have hor := Nat.or_lt_two_pow hf hd
  have hw := (freqHighOf d).isLt
  simp only [withFreqHigh, BitVec.toNat_setWidth, BitVec.toNat_or, BitVec.toNat_and, BitVec.toNat_ofNat,
    BitVec.toNat_shiftLeft]
  rw [Nat.mod_eq_of_lt (a := (freqHighOf d).toNat) (by omega),
    Nat.mod_eq_of_lt (a := (freqHighOf d).toNat <<< 8) (by omega)]
  simp only [Nat.reducePow, Nat.reduceMod] at hor ⊢
  omega

/-- The noise channel's frequency is one byte (R22). -/
theorem freq_c3_le (s : State) : (s.freq .c3).toNat ≤ 0x7FF := by
  have := s.ch3.freq.isLt
  simp only [State.freq, BitVec.toNat_setWidth]
  omega

/-- A body leaves a frequency as it was, or with 11 bits. -/
theorem RegisterBody.freq {c : Chan} {body : State → State × Bool} (hb : RegisterBody c body) (s : State) (j : Chan) :
    (body s).1.freq j = s.freq j ∨ ((body s).1.freq j).toNat ≤ 0x7FF := by
  by_cases hj : j = c
  · subst hj
    cases hb
    case freqlo1 | freqlo2 | freqlo3 => exact .inr (withFreqLow_le _ _)
    case freqhi1 | freqhi2 | freqhi3 => exact .inr (withFreqHigh_le _ _)
    case poly4 => exact .inr (freq_c3_le _)
    all_goals exact .inl rfl
  · obtain ⟨_, _, _, _, _, hothers⟩ := hb.kept s
    exact .inl (hothers.freq hj)

/-- A body that triggers has just written the frequency's high bits, or is the noise channel's (R125, R129). -/
theorem RegisterBody.freq_of_trigger {c : Chan} {body : State → State × Bool} (hb : RegisterBody c body) {s : State}
    (ht : (body s).2 = true) : ((body s).1.freq c).toNat ≤ 0x7FF := by
  cases hb
  case freqhi1 | freqhi2 | freqhi3 => exact withFreqHigh_le _ _
  case len4 | env4 | poly4 | trig4 => exact freq_c3_le _
  all_goals exact absurd ht Bool.false_ne_true

theorem localUpdate_freqInv {c : Chan} {body : State → State × Bool} (hb : RegisterBody c body) {s : State}
    (hs : FreqInv s) : FreqInv (localUpdate c (body s)) := by
  intro j hon
  rw [localUpdate_freq]
  rcases localUpdate_on hb hon with ⟨rfl, ht⟩ | hon
  · exact hb.freq_of_trigger ht
  · rcases hb.freq s j with he | hle
    · exact he ▸ hs j hon
    · exact hle

/-- The frequency bound looks at the voices and the frequencies only, and a channel that goes off loses it. -/
theorem FreqInv.of_on {s t : State} (hs : FreqInv s)
    (h : ∀ j, (t.voice j).on = true → ((s.voice j).on = true ∧ t.freq j = s.freq j) ∨ (t.freq j).toNat ≤ 0x7FF) :
    FreqInv t := by
  intro j hon
  rcases h j hon with ⟨hs', he⟩ | hle
  · exact he ▸ hs j hs'
  · exact hle

theorem sweepStep_freqInv {p : Slice} (hp : FreqInv p.state) : FreqInv (sweepStep p).state := by
  refine hp.of_on fun j hon => ?_
  rcases sweepStep_cases p with ⟨_, he⟩ | ⟨hle, he⟩
  · rw [he, switchOff_voice] at hon
    rw [he, switchOff_freq]
    by_cases hj : j = .c0
    · simp [hj] at hon
    · rw [if_neg hj, sweepStored_voice] at hon
      exact .inl ⟨hon, sweepStored_freq_other hj _⟩
  · rw [he, commit_voice, sweepStored_voice] at hon
    rw [he, commit_freq]
    by_cases hj : j = .c0
    · subst hj
      refine .inr ?_
      simp only [sweepStored, State.freq, BitVec.toNat_setWidth, BitVec.toNat_ofNat]
      exact (Nat.mod_le _ _).trans ((Nat.mod_le _ _).trans hle)
    · exact .inl ⟨hon, sweepStored_freq_other hj _⟩

theorem sliceClosed_freqInv : SliceClosed fun s t => FreqInv s → FreqInv t where
  refl _ h := h
  trans h1 h2 h := h2 (h1 h)
  minimum _ _ h := h.of_on fun _ hon => .inl ⟨hon, rfl⟩
  length i n s h := h.of_on fun j hon => by
    rw [setVoice_voice] at hon
    split at hon
    · next hj => exact .inl ⟨hj ▸ hon, setVoice_freq s i j _⟩
    · exact .inl ⟨hon, setVoice_freq s i j _⟩
  envelope w n s _ h := h.of_on fun j hon => .inl ⟨setEnv_voice s _ j _ ▸ hon, setEnv_freq s _ j _⟩
  volume i v s h := h.of_on fun j hon => .inl ⟨commit_voice s _ v j ▸ hon, commit_freq s _ v j⟩
  elapsed e s h := h.of_on fun j hon => .inl ⟨sweepElapse_voice e j s ▸ hon, sweepElapse_freq e j s⟩
  swept _ := sweepStep_freqInv
  off i p h := h.of_on fun j hon => by
    rw [switchOff_voice] at hon
    split at hon
    · cases hon
    · exact .inl ⟨hon, switchOff_freq i j p⟩

/-! ### Pans (R24) -/

/-- The passes of ADVANCE change no pan. -/
theorem sliceClosed_pan : SliceClosed fun s t => ∀ j, (t.voice j).pan = (s.voice j).pan where
  refl _ _ := rfl
  trans h1 h2 j := (h2 j).trans (h1 j)
  minimum _ _ _ := rfl
  length i n s j := by
    rw [setVoice_voice]
    split
    · next hj => rw [hj]
    · rfl
  envelope w n s _ j := by rw [setEnv_voice]
  volume i v s j := by rw [commit_voice]
  elapsed e s j := by rw [sweepElapse_voice]
  swept p j := by
    rcases sweepStep_cases p with ⟨_, he⟩ | ⟨_, he⟩
    · rw [he, switchOff_voice]
      split
      · next hj => rw [hj, sweepStored_voice]
      · rw [sweepStored_voice]
    · rw [he, commit_voice, sweepStored_voice]
  off i p j := by
    rw [switchOff_voice]
    split
    · next hj => rw [hj]
    · rfl

theorem PanInv.congr {s t : State} (hr : t.routing = s.routing) (hp : ∀ j, (t.voice j).pan = (s.voice j).pan)
    (h : PanInv s) : PanInv t := fun j => by rw [hp, hr]; exact h j

/-- The state with the routing byte and every pan as ROUTING byte `d` gives them (R172). -/
def routed (d : Byte) (s : State) : State :=
  { s with
    routing := d
    ch0 := { s.ch0 with voice := { s.ch0.voice with pan := panOf d .c0 } }
    ch1 := { s.ch1 with voice := { s.ch1.voice with pan := panOf d .c1 } }
    ch2 := { s.ch2 with voice := { s.ch2.voice with pan := panOf d .c2 } }
    ch3 := { s.ch3 with voice := { s.ch3.voice with pan := panOf d .c3 } } }

theorem routed_voice (d : Byte) (s : State) (j : Chan) :
    (routed d s).voice j = { s.voice j with pan := panOf d j } := by cases j <;> rfl

@[simp] theorem routed_freq (d : Byte) (s : State) (j : Chan) : (routed d s).freq j = s.freq j := by
  cases j <;> rfl

/-- The commits of ROUTING leave the ledger as the assignments made it (R172). -/
theorem routingUpdate_ledger (d : Byte) (s : State) : (routingUpdate d s).ledger = (routed d s).ledger := by
  have once (i : Chan) {u w : State} (h : u.ledger = w.ledger) :
      (routePan d i u).ledger = (setVoice i { w.voice i with pan := panOf d i } w).ledger := by
    obtain ⟨h0, h1, h2, h3⟩ := ledger_channels h
    rw [routePan, ledger_commit, ledger_voice h]
    cases i <;> simp [State.ledger, setVoice, h0, h1, h2, h3, ledger_cfg h, ledger_target h, ledger_muted h,
      ledger_routing h, ledger_io h, ledger_sampleBuf h]
  rw [routingUpdate, ledger_commit]
  exact once .c3 (once .c2 (once .c1 (once .c0 (w := { s with routing := d }) rfl)))

/-! ### The byte memories (R60) -/

/-- A wave byte's two samples stay inside the 32 bytes of the buffer, in canonical form (R231). -/
theorem convertSample_inv {j : Nat} (hj : j < 16) (cfg : Config) (d : Byte) {m : Memory}
    (hm : m.wf = true ∧ ∀ c ∈ m, 0 ≤ c.1 ∧ c.1 < 32) :
    (convertSample cfg j d m).wf = true ∧ ∀ c ∈ convertSample cfg j d m, 0 ≤ c.1 ∧ c.1 < 32 :=
  ⟨Memory.write_wf _ _ (Memory.write_wf _ _ hm.1),
    Memory.write_range _ (Memory.write_range _ hm.2 ⟨Nat.zero_le _, by omega⟩) ⟨Nat.zero_le _, by omega⟩⟩

theorem convertAll_inv (cfg : Config) (io : Memory) {n : Nat} (hn : n ≤ 16) :
    (convertAll cfg io n).wf = true ∧ ∀ c ∈ convertAll cfg io n, 0 ≤ c.1 ∧ c.1 < 32 := by
  induction n with
  | zero => exact ⟨rfl, by simp [convertAll]⟩
  | succ n ih => exact convertSample_inv (by omega) cfg _ (ih (by omega))

/-! ### What every change of the ledger keeps, every step keeps -/

/-- A preorder on states that equality of the ledgers implies, and that each update which changes the ledger respects. -/
structure LedgerClosed (R : State → State → Prop) : Prop where
  kept    : ∀ {s t}, t.ledger = s.ledger → R s t
  trans   : ∀ {s t u}, R s t → R t u → R s u
  channel : ∀ {c body} (s : State), RegisterBody c body → R s (localUpdate c (body s))
  routing : ∀ (d : Byte) (s : State), R s (routed d s)
  wave    : ∀ (j : BitVec 4) (d : Byte) (s : State),
    R s { s with sampleBuf := convertSample s.cfg j.toNat d s.sampleBuf }
  mute    : ∀ s : State, R s { s with target := .dummy, muted := true }
  unmute  : ∀ s : State, R s { s with target := .real, muted := false }
  passes  : ∀ (e : Int) (s : State), R s (advancePasses e s).state
  init    : ∀ s : State, R s (initState s)
  stored  : ∀ (a d : Byte) (s : State), 0x10 ≤ a.toNat → a.toNat ≤ 0x3F →
    R s { s with io := s.io.write a.toNat d }

theorem LedgerClosed.stepClosed {R : State → State → Prop} (C : LedgerClosed R) : StepClosed R where
  refl _ := C.kept rfl
  trans := C.trans
  turn h := C.kept (ledger_of_recordSide (recordSide_of_producerSide (consumerTurn_producerSide h)))
  count _ _ := C.kept rfl
  send _ h := C.kept (ledger_of_recordSide (send_recordSide h))
  enqueue _ h := C.kept (ledger_of_recordSide (enqueue_recordSide h))
  await _ h := C.kept (ledger_of_recordSide (await_recordSide h))
  deferred _ _ := C.kept rfl
  channel s hb := C.trans (C.channel s hb) (C.kept (channelUpdate_ledger hb _ s))
  mastervol _ _ := C.kept (ledger_commit _ _ _)
  routing d s := C.trans (C.routing d s) (C.kept (routingUpdate_ledger d s))
  wave := C.wave
  disable _ := C.kept (ledger_commit _ _ _)
  enable _ := C.kept (ledger_commit _ _ _)
  refresh _ := C.kept (by simp only [refreshUpdate, ledger_commit]; rfl)
  mute := C.mute
  unmute s := C.trans (C.unmute s) (C.kept (by simp only [refreshUpdate, ledger_commit]; rfl))
  disabled _ := C.kept rfl
  enabled _ _ := C.kept (by simp only [refreshUpdate, ledger_commit]; rfl)
  sync _ _ := C.kept (ledger_commit _ _ _)
  vblank _ := C.kept (ledger_commit _ _ _)
  output _ := C.kept rfl
  passes e s := C.passes e.toNat s
  init s _ := C.init s
  fetched _ _ := C.kept rfl
  stored := C.stored

/-! ### The invariants -/

theorem ledgerClosed_cfg : LedgerClosed fun s t => t.cfg = s.cfg where
  kept := ledger_cfg
  trans h1 h2 := h2.trans h1
  channel s hb := restSide_cfg (localUpdate_rest hb s)
  routing _ _ := rfl
  wave _ _ _ := rfl
  mute _ := rfl
  unmute _ := rfl
  passes e s := restSide_cfg (advancePasses_rest e s)
  init _ := rfl
  stored _ _ _ _ _ := rfl

theorem TargetInv.congr {s t : State} (ht : t.target = s.target) (hm : t.muted = s.muted) (h : TargetInv s) :
    TargetInv t := by unfold TargetInv; rw [ht, hm]; exact h

theorem ledgerClosed_target : LedgerClosed fun s t => TargetInv s → TargetInv t where
  kept h := TargetInv.congr (ledger_target h) (ledger_muted h)
  trans h1 h2 h := h2 (h1 h)
  channel s hb := TargetInv.congr (restSide_target (localUpdate_rest hb s)) (restSide_muted (localUpdate_rest hb s))
  routing _ _ h := h
  wave _ _ _ h := h
  mute _ _ := by simp [TargetInv]
  unmute _ _ := by simp [TargetInv]
  passes e s := TargetInv.congr (restSide_target (advancePasses_rest e s)) (restSide_muted (advancePasses_rest e s))
  init _ _ := by simp [TargetInv, initState]
  stored _ _ _ _ _ h := h

theorem panOf_zero (i : Chan) : panOf 0 i = 0 := by cases i <;> decide

theorem ledgerClosed_pan : LedgerClosed fun s t => PanInv s → PanInv t where
  kept h := PanInv.congr (ledger_routing h) fun j => by rw [ledger_voice h]
  trans h1 h2 h := h2 (h1 h)
  channel s hb := PanInv.congr (restSide_routing (localUpdate_rest hb s)) (localUpdate_pan hb s)
  routing d s _ i := by rw [routed_voice]; rfl
  wave _ _ _ h := h
  mute _ h := h
  unmute _ h := h
  passes e s := PanInv.congr (restSide_routing (advancePasses_rest e s)) (sliceClosed_pan.advancePasses e s)
  init _ _ i := by cases i <;> exact (panOf_zero _).symm
  stored _ _ _ _ _ h := h

theorem ledgerClosed_freq : LedgerClosed fun s t => FreqInv s → FreqInv t where
  kept h hs i := by rw [ledger_voice h, ledger_freq h]; exact hs i
  trans h1 h2 h := h2 (h1 h)
  channel _ hb := localUpdate_freqInv hb
  routing d s h := h.of_on fun j hon => .inl ⟨by rwa [routed_voice] at hon, routed_freq d s j⟩
  wave _ _ _ h := h
  mute _ h := h
  unmute _ h := h
  passes := sliceClosed_freqInv.advancePasses
  init _ _ i hon := by cases i <;> cases hon
  stored _ _ _ _ _ h := h

theorem MemoryInv.congr {s t : State} (hi : t.io = s.io) (hb : t.sampleBuf = s.sampleBuf) (h : MemoryInv s) :
    MemoryInv t := by unfold MemoryInv; rw [hi, hb]; exact h

theorem MemoryInv.init {s : State} (h : MemoryInv s) : MemoryInv (initState s) := by
  obtain ⟨hio, _, hioRange, _⟩ := h
  obtain ⟨hwf, hrange⟩ := convertAll_inv s.cfg s.io (le_refl 16)
  simp only [MemoryInv, initState]
  exact ⟨hio, hwf, hioRange, hrange⟩

theorem ledgerClosed_memory : LedgerClosed fun s t => MemoryInv s → MemoryInv t where
  kept h := MemoryInv.congr (ledger_io h) (ledger_sampleBuf h)
  trans h1 h2 h := h2 (h1 h)
  channel s hb := MemoryInv.congr (restSide_io (localUpdate_rest hb s)) (restSide_sampleBuf (localUpdate_rest hb s))
  routing _ _ h := h
  wave j d s h := by
    obtain ⟨hio, hbuf, hioRange, hbufRange⟩ := h
    obtain ⟨hwf, hrange⟩ := convertSample_inv j.isLt s.cfg d ⟨hbuf, hbufRange⟩
    exact ⟨hio, hwf, hioRange, hrange⟩
  mute _ h := h
  unmute _ h := h
  passes e s := MemoryInv.congr (restSide_io (advancePasses_rest e s)) (restSide_sampleBuf (advancePasses_rest e s))
  init _ := MemoryInv.init
  stored a d s h1 h2 h := by
    obtain ⟨hio, hbuf, hioRange, hbufRange⟩ := h
    exact ⟨Memory.write_wf _ _ hio, hbuf, Memory.write_range _ hioRange ⟨h1, by omega⟩, hbufRange⟩

/-- Settles O7: each of the five is kept by every update of the ledger, and so by every step. -/
theorem stepKeepsTheRecordInvariants : Obligations.StepKeepsTheRecordInvariants := fun _ _ h =>
  ⟨ledgerClosed_cfg.stepClosed.step h, ledgerClosed_target.stepClosed.step h, ledgerClosed_pan.stepClosed.step h,
    ledgerClosed_freq.stepClosed.step h, ledgerClosed_memory.stepClosed.step h⟩

end Sys2Proof.Machine
end

section
/-! The host's store (R44, R341), and the on-mask of the real block (R36, R51). -/

namespace Sys2Proof.Machine

/-! ### A store of the host -/

theorem consumerTurn_io {s t : State} (h : consumerTurn s = .next t) : t.io = s.io :=
  recordSide_io (recordSide_of_producerSide (consumerTurn_producerSide h))

/-- The host's store is made in the state that the consumer's opportunity leaves. -/
theorem hostStep_store {s u : State} {a d : Byte} {rest : List HostAction} (hs : s.stream = .store a d :: rest)
    (hu : consumerTurn { s with stream := rest } = .next u) : hostStep s = hostStore a d u := by
  simp only [hostStep, hs, hu, andThen_next]

/-- A stored byte is read back, and every other byte is as before (R44). -/
theorem ioByte_write {s : State} (hwf : s.io.wf = true) (a d b : Byte) :
    State.ioByte { s with io := s.io.write a.toNat d } b = if b = a then d else s.ioByte b := by
  split
  · next hb => rw [hb]; exact Memory.read_write_same _ _ hwf
  · next hb => exact Memory.read_write_other _ hwf fun he => hb (BitVec.eq_of_toNat_eq he)

/-- Settles O6: the step is the host's, which writes the one byte of `io` inside the window and faults outside it. -/
theorem stepStoresTheHostByte : Obligations.StepStoresTheHostByte := by
  intro s u a d rest hc hh hs hu hwf
  have hstep : step s = hostStore a d u := (step_eq_hostStep hc hh).trans (hostStep_store hs hu)
  have hio : u.io = s.io := (consumerTurn_io hu :)
  refine ⟨fun ha => ?inside, fun ha => hstep.trans (if_neg ha)⟩
  case inside => exact ⟨_, hstep.trans (if_pos ha), rfl, ioByte_write (hio ▸ hwf) a d⟩

/-! ### One bit of a mask -/

/-- Writing bit `i` of a mask changes that bit only (R121). -/
theorem maskBit_withMaskBit (m : BitVec 4) (i j : Chan) (b : Bool) :
    maskBit (withMaskBit m i b) j = if j = i then b else maskBit m j := by
  cases b <;> cases i <;> cases j <;> simp [maskBit, withMaskBit, Chan.index]

@[simp] theorem maskBit_zero (i : Chan) : maskBit 0 i = false := by simp [maskBit]

theorem commit_onMask_of_ne {f : Field} (hf : f ≠ .onMask) (v : Word) (s : State) :
    (commit f v s).rsb.onMask = s.rsb.onMask := by
  rcases commit_eq s f v with h | h | h <;> rw [h]
  exact SharedBlock.put_onMask_of_ne _ _ hf

/-- The commit of one on-bit while P writes the real block and is enabled. -/
theorem commitOnBit_onMask (i : Chan) (b : Bool) {s : State} (ht : s.target = .real) (he : s.soundEnabled = true) :
    (commitOnBit i b s).rsb.onMask = withMaskBit s.rsb.onMask i b := by
  simp [commitOnBit, commit, State.sb, ht, he]

/-! ### The on-bits of the real block, while P writes it -/

/-- While P writes the real block and is enabled, an on-bit of it is set only for a channel that is on. -/
def OnBitInv (s : State) : Prop :=
  s.target = .real → s.soundEnabled = true → ∀ i, maskBit s.rsb.onMask i = true → (s.voice i).on = true

/-- P writes the real block exactly while it is not muted (R33), so this is R51. -/
theorem onMaskInv_iff {s : State} (h : TargetInv s) : OnMaskInv s ↔ OnBitInv s := by
  unfold OnMaskInv OnBitInv
  rw [show s.target = .real ↔ s.muted = false from h]

/-- Every on-bit that is set after an update was set before for a channel that did not go off, or is of a channel on. -/
theorem OnBitInv.of_bits {s t : State} (hs : OnBitInv s) (ht : t.target = s.target)
    (he : t.soundEnabled = s.soundEnabled)
    (h : s.target = .real → s.soundEnabled = true → ∀ j, maskBit t.rsb.onMask j = true →
      (maskBit s.rsb.onMask j = true ∧ ((s.voice j).on = true → (t.voice j).on = true)) ∨ (t.voice j).on = true) :
    OnBitInv t := by
  intro htr hen j hj
  rw [ht] at htr
  rw [he] at hen
  rcases h htr hen j hj with ⟨hbit, hon⟩ | hon
  · exact hon (hs htr hen j hbit)
  · exact hon

theorem OnBitInv.congr {s t : State} (ht : t.target = s.target) (he : t.soundEnabled = s.soundEnabled)
    (hm : t.rsb.onMask = s.rsb.onMask) (hv : ∀ j, (t.voice j).on = (s.voice j).on) (hs : OnBitInv s) : OnBitInv t :=
  hs.of_bits ht he fun _ _ j hj => .inl ⟨hm ▸ hj, fun hon => (hv j).trans hon⟩

theorem OnBitInv.of_recordSide {s t : State} (h : recordSide t = recordSide s) : OnBitInv s → OnBitInv t :=
  OnBitInv.congr (recordSide_target h) (recordSide_soundEnabled h) (recordSide_onMask h)
    fun j => by rw [recordSide_voice h]

theorem OnBitInv.commit_of_ne {f : Field} (hf : f ≠ .onMask) (v : Word) {s : State} :
    OnBitInv s → OnBitInv (commit f v s) :=
  OnBitInv.congr (commit_target s f v) (commit_soundEnabled s f v) (commit_onMask_of_ne hf v s)
    fun j => by rw [commit_voice]

/-- A commit that clears the whole mask establishes the invariant (R176, R180). -/
theorem OnBitInv.cleared (s : State) : OnBitInv (commit .onMask 0 s) := by
  intro ht he i hi
  rw [commit_target] at ht
  rw [commit_soundEnabled] at he
  have hmask : (commit .onMask 0 s).rsb.onMask = 0 := by simp [commit, ht, he]
  rw [hmask, maskBit_zero] at hi
  cases hi

/-- Switching a channel off clears its on-bit (R204, R208). -/
theorem OnBitInv.switchOff (i : Chan) {p : Slice} (h : OnBitInv p.state) : OnBitInv (switchOff i p).state := by
  refine h.of_bits (by simp [Machine.switchOff]) (by simp [Machine.switchOff]) fun ht he j hj => .inl ?_
  have hbits : (Machine.switchOff i p).state.rsb.onMask = withMaskBit p.state.rsb.onMask i false := by
    simp only [Machine.switchOff, signalDeactivate_rsb]
    rw [commitOnBit_onMask i false (by simpa using ht) (by simpa using he), setOn_rsb]
  rw [hbits, maskBit_withMaskBit] at hj
  rw [switchOff_voice]
  split at hj
  · cases hj
  · next hji => rw [if_neg hji]; exact ⟨hj, id⟩

theorem sliceClosed_onBit : SliceClosed fun s t => OnBitInv s → OnBitInv t where
  refl _ h := h
  trans h1 h2 h := h2 (h1 h)
  minimum _ _ h := h
  length i n s := OnBitInv.congr (setVoice_target s i _) (setVoice_soundEnabled s i _) (by rw [setVoice_rsb])
    fun j => by
      rw [setVoice_voice]
      split
      · next hj => rw [hj]
      · rfl
  envelope w n s _ := OnBitInv.congr (setEnv_target s _ _) (setEnv_soundEnabled s _ _) (by rw [setEnv_rsb])
    fun j => by rw [setEnv_voice]
  volume i v _ := OnBitInv.commit_of_ne (by nofun) v
  elapsed e s := OnBitInv.congr rfl rfl rfl fun j => by rw [sweepElapse_voice]
  swept p h := by
    have hstored : OnBitInv (sweepStored p.state) := h.congr rfl rfl rfl fun j => by rw [sweepStored_voice]
    rcases sweepStep_cases p with ⟨_, he⟩ | ⟨_, he⟩
    · rw [he]; exact OnBitInv.switchOff .c0 (p := ⟨_, _⟩) hstored
    · rw [he]; exact hstored.commit_of_ne (by nofun) _
  off i _ := OnBitInv.switchOff i

/-! ### The on-bit of a channel write (R121) -/

/-- The commit of one on-bit leaves the other bits of the real block alone, whichever block P writes. -/
theorem commitOnBit_bit_other {i j : Chan} (hj : j ≠ i) (b : Bool) (s : State) :
    maskBit (commitOnBit i b s).rsb.onMask j = maskBit s.rsb.onMask j := by
  cases he : s.soundEnabled <;> cases ht : s.target
  case true.real => rw [commitOnBit_onMask i b ht he, maskBit_withMaskBit, if_neg hj]
  all_goals simp [commitOnBit, commit, he, ht]

/-- An on-bit that the commits of a channel write leave set: of the channel it triggers, or one that stood and that the
write had no reason to clear. -/
theorem commitOn_bit {c j : Chan} {on trig : Bool} {u : State} (ht : u.target = .real) (he : u.soundEnabled = true)
    (hj : maskBit (commitOn c on trig u).rsb.onMask j = true) :
    (j = c ∧ trig = true)
      ∨ (maskBit u.rsb.onMask j = true ∧ (j = c → on = true → (u.voice c).on = true)) := by
  by_cases hjc : j = c
  · subst hjc
    cases trig with
    | true => exact .inl ⟨rfl, rfl⟩
    | false =>
      by_cases hoff : (on && !(u.voice j).on) = true
      · simp [commitOn, hoff, commitOnBit_onMask j false ht he, maskBit_withMaskBit] at hj
      · refine .inr ⟨by simpa [commitOn, hoff] using hj, fun _ hon => ?_⟩
        simpa [hon] using hoff
  · have hsame : maskBit (commitOn c on trig u).rsb.onMask j = maskBit u.rsb.onMask j := by
      unfold commitOn
      dsimp only
      split <;> split <;> simp only [commitOnBit_bit_other hjc]
    exact .inr ⟨hsame ▸ hj, fun h => absurd h hjc⟩

theorem commitParams_onMask (c : Chan) (s : State) : (commitParams c s).rsb.onMask = s.rsb.onMask := by
  cases c <;> simp only [commitParams, commit_onMask_of_ne, ne_eq, reduceCtorEq, not_false_eq_true]

theorem commitParams_voice (c j : Chan) (s : State) : (commitParams c s).voice j = s.voice j := by
  cases c <;> simp [commitParams]

theorem localUpdate_rsb {c : Chan} {body : State → State × Bool} (hb : RegisterBody c body) (s : State) :
    (localUpdate c (body s)).rsb = s.rsb := by
  obtain ⟨_, hbody, _⟩ := hb.kept s
  obtain ⟨_, htrigger, _⟩ := triggerLocal_kept c (body s).1
  unfold localUpdate
  split
  · exact htrigger.trans hbody
  · exact hbody

theorem OnBitInv.channel {c : Chan} {body : State → State × Bool} (hb : RegisterBody c body) {s : State}
    (h : OnBitInv s) : OnBitInv (channelUpdate c (s.voice c).on (body s)) := by
  have hr := channelUpdate_rest hb (s.voice c).on s
  have hl := (commitParams_kept c _).trans (localUpdate_rest hb s)
  refine h.of_bits (restSide_target hr) (restSide_soundEnabled hr) fun ht he j hj => ?_
  have hmask : (channelUpdate c (s.voice c).on (body s)).rsb.onMask
      = (commitOn c (s.voice c).on (body s).2 (commitParams c (localUpdate c (body s)))).rsb.onMask := by
    unfold channelUpdate
    rw [reportTimers_eq]
    rfl
  rw [hmask] at hj
  rw [channelUpdate_voice]
  rcases commitOn_bit ((restSide_target hl).trans ht) ((restSide_soundEnabled hl).trans he) hj with
    ⟨rfl, htrig⟩ | ⟨hbit, hkeep⟩
  · rw [localUpdate, if_pos htrig, triggerLocal_voice]
    exact .inr rfl
  · rw [commitParams_onMask, localUpdate_rsb hb] at hbit
    refine .inl ⟨hbit, fun hon => ?_⟩
    by_cases hjc : j = c
    · subst hjc
      exact commitParams_voice j j _ ▸ hkeep rfl hon
    · rwa [localUpdate_voice_other hb s hjc]

theorem OnBitInv.routePan (d : Byte) (i : Chan) {s : State} (h : OnBitInv s) : OnBitInv (routePan d i s) := by
  refine OnBitInv.commit_of_ne (by nofun) _ (h.congr ?_ ?_ ?_ fun j => ?_)
  · exact setVoice_target s i _
  · exact setVoice_soundEnabled s i _
  · rw [setVoice_rsb]
  · rw [setVoice_voice]
    split
    · next hj => rw [hj]
    · rfl

/-! ### The invariant -/

theorem stepClosed_onBit : StepClosed fun s t => OnBitInv s → OnBitInv t where
  refl _ h := h
  trans h1 h2 h := h2 (h1 h)
  turn h := OnBitInv.of_recordSide (recordSide_of_producerSide (consumerTurn_producerSide h))
  count _ _ := OnBitInv.of_recordSide rfl
  send _ h := OnBitInv.of_recordSide (send_recordSide h)
  enqueue _ h := OnBitInv.of_recordSide (enqueue_recordSide h)
  await _ h := OnBitInv.of_recordSide (await_recordSide h)
  deferred _ _ h := h
  channel _ hb := OnBitInv.channel hb
  mastervol d s h := OnBitInv.commit_of_ne (by nofun) _ (s := { s with masterVolume := d }) h
  routing d s h :=
    have hbyte : OnBitInv { s with routing := d } := h
    ((((hbyte.routePan d .c0).routePan d .c1).routePan d .c2).routePan d .c3).commit_of_ne (by nofun) _
  wave _ _ _ h := h
  disable _ _ := OnBitInv.cleared _
  enable _ _ := OnBitInv.cleared _
  refresh _ _ := OnBitInv.cleared _
  mute _ _ ht := nomatch ht
  unmute _ _ := OnBitInv.cleared _
  disabled _ _ _ he := nomatch he
  enabled _ _ _ := OnBitInv.cleared _
  sync b s h := OnBitInv.commit_of_ne (by nofun) _ (s := { s with accurateSync := b }) h
  vblank s h := OnBitInv.commit_of_ne (by nofun) _ (s := { s with producerFlip := !s.producerFlip }) h
  output _ h := h
  passes e s := sliceClosed_onBit.advancePasses e.toNat s
  init s _ _ _ _ i hi := by
    have hmask : (initState s).rsb.onMask = 0 := rfl
    rw [hmask, maskBit_zero] at hi
    cases hi
  fetched _ _ h := h
  stored _ _ _ _ _ h := h

/-- Settles O9: while P is not muted it writes the real block, where an update that switches a channel off clears its
on-bit too. -/
theorem stepKeepsTheOnMask : Obligations.StepKeepsTheOnMask := by
  intro s t h htarget hmask
  have htarget' : TargetInv t := ledgerClosed_target.stepClosed.step h htarget
  exact (onMaskInv_iff htarget').mpr (stepClosed_onBit.step h ((onMaskInv_iff htarget).mp hmask))

end Sys2Proof.Machine
end

section
/-! The queue (R48, R111, R112): its capacity, and the words in it, in P's hold and in the consumer's hand. -/

namespace Sys2Proof.Machine

/-! ### The delivery of one word -/

/-- A preorder on states that every part of the delivery of the word `w` respects, the admission taken as one part
(R245 to R255). `MessageClosed` takes the admission apart; a relation that its single writes break fits here. -/
structure DeliveryClosed (w : Word) (R : State → State → Prop) : Prop where
  refl       : ∀ s, R s s
  trans      : ∀ {s t u}, R s t → R t u → R s u
  turn       : ∀ {s t}, consumerTurn s = .next t → R s t
  enqueue    : ∀ {s t}, enqueue w s = .next t → R s t
  diagnostic : ∀ (c : DiagCode) (s : State), R s (diag c s)
  cell       : ∀ (v : Word) (s : State), R s { s with rsb := s.rsb.put .syncCycle v }
  release    : ∀ s : State, R s { s with held := none }
  hold       : ∀ s : State, R s { s with held := some ⟨w, []⟩ }
  drawn      : ∀ s : State, R s (afterDraw s)

section Closed

variable {w : Word} {R : State → State → Prop} (C : DeliveryClosed w R)
include C

theorem DeliveryClosed.fallBack {s t : State} (h : fallBack w s = .next t) : R s t :=
  C.trans (C.diagnostic .syncFallback s) (C.enqueue h)

theorem DeliveryClosed.await {s t : State} (h : await w s = .next t) : R s t := by
  unfold Machine.await at h
  obtain ⟨a, hturn, h⟩ := andThen_eq_next.mp h
  refine C.trans (C.turn hturn) ?_
  split at h
  · exact C.trans (C.release a) (C.enqueue h)
  split at h
  · obtain ⟨b, hturn', h⟩ := andThen_eq_next.mp h
    exact C.trans (C.release a) (C.trans (C.turn hturn') (C.trans (C.cell sentinel b)
      (C.trans (C.diagnostic .syncAbort _) (C.enqueue h))))
  · cases h
    exact C.hold a

theorem DeliveryClosed.syncSend {s t : State} (h : syncSend w s = .next t) : R s t := by
  unfold Machine.syncSend at h
  obtain ⟨a, hturn, h⟩ := andThen_eq_next.mp h
  refine C.trans (C.trans (C.drawn s) (C.turn hturn)) ?_
  split at h
  · exact C.fallBack h
  obtain ⟨b, hturn, h⟩ := andThen_eq_next.mp h
  refine C.trans (C.turn hturn) ?_
  split at h
  · exact C.fallBack h
  obtain ⟨c, hturn, h⟩ := andThen_eq_next.mp h
  refine C.trans (C.turn hturn) ?_
  split at h
  · exact C.fallBack h
  obtain ⟨d, hturn, h⟩ := andThen_eq_next.mp h
  exact C.trans (C.turn hturn) (C.trans (C.cell _ d) (C.await h))

end Closed

theorem DeliveryClosed.send {k : MsgKind} {c : MsgChan} {R : State → State → Prop}
    (C : DeliveryClosed (messageWord k c) R) {s t : State} (h : send k c s = .next t) : R s t := by
  unfold Machine.send at h
  split at h
  · cases h
    exact C.refl s
  split at h
  · exact C.syncSend h
  · exact C.enqueue h

/-! ### The queue invariant -/

/-- The invariant reads the capacity, the queue, P's hold and the word in the consumer's hand. -/
theorem QueueInv.congr {s t : State} (hc : t.cfg = s.cfg) (hq : t.queue = s.queue) (hh : t.held = s.held)
    (hd : t.consumer.dequeued = s.consumer.dequeued) (h : QueueInv s) : QueueInv t := by
  unfold QueueInv
  rw [hc, hq, hh, hd]
  exact h

theorem QueueInv.of_restSide {s t : State} (h : restSide t = restSide s) : QueueInv s → QueueInv t :=
  QueueInv.congr (restSide_cfg h) (restSide_queue h) (restSide_held h) (by rw [restSide_consumer h])

theorem QueueInv.commit (f : Field) (v : Word) {s : State} : QueueInv s → QueueInv (commit f v s) :=
  QueueInv.congr (commit_cfg s f v) (commit_queue s f v) (commit_held s f v) (by rw [commit_consumer])

/-- The consumer moves the head word into its hand, or puts the word in its hand away; it adds none (R262). -/
theorem consumerClosed_queueInv : ConsumerClosed fun s t => QueueInv s → QueueInv t where
  refl _ h := h
  trans h1 h2 h := h2 (h1 h)
  taken _ _ h := h
  move hm h := by
    obtain ⟨hlen, hforms, hheld, hhand⟩ := h
    cases hm with
    | stay => exact ⟨hlen, hforms, hheld, hhand⟩
    | dequeue w rest hd hq =>
      rw [hq] at hlen hforms
      refine ⟨(Nat.le_succ _).trans hlen, fun v hv => hforms v (List.mem_cons_of_mem _ hv), hheld, fun v hv => ?_⟩
      cases hv
      exact hforms w List.mem_cons_self
    | count => exact ⟨hlen, hforms, hheld, nofun⟩
    | acknowledge | finishAcknowledge | own | flip => exact ⟨hlen, hforms, hheld, hhand⟩

/-- The queue is below its capacity. -/
def HasRoom (s : State) : Prop := s.queue.length < s.cfg.queueCapacity

/-- The consumer only shortens the queue. -/
theorem consumerClosed_hasRoom : ConsumerClosed fun s t => HasRoom s → HasRoom t where
  refl _ h := h
  trans h1 h2 h := h2 (h1 h)
  taken _ _ h := h
  move hm h := by
    cases hm with
    | dequeue w rest hd hq =>
      unfold HasRoom at h
      rw [hq] at h
      exact (Nat.lt_succ_self _).trans h
    | stay | count | acknowledge | finishAcknowledge | own | flip => exact h

theorem QueueInv.push {w : Word} (hw : IsForm w) {s : State} (h : QueueInv s) (hroom : HasRoom s) :
    QueueInv { s with queue := s.queue ++ [w] } := by
  obtain ⟨_, hforms, hheld, hhand⟩ := h
  refine ⟨?_, fun v hv => ?_, hheld, hhand⟩
  · rw [List.length_append]
    exact hroom
  · rcases List.mem_append.mp hv with hv | hv
    · exact hforms v hv
    · rw [List.mem_singleton.mp hv]
      exact hw

/-- The capacity is tested before the word goes in, and what the consumer does in between leaves the room (R248). -/
theorem QueueInv.enqueue {w : Word} (hw : IsForm w) {s t : State} (h : enqueue w s = .next t) (hs : QueueInv s) :
    QueueInv t := by
  have turn {a b : State} (hturn : consumerTurn a = .next b) (ha : QueueInv a) (hroom : HasRoom a) :
      QueueInv b ∧ HasRoom b :=
    ⟨consumerClosed_queueInv.turn hturn ha, consumerClosed_hasRoom.turn hturn hroom⟩
  unfold Machine.enqueue at h
  obtain ⟨a, hturn, h⟩ := andThen_eq_next.mp h
  have ha := consumerClosed_queueInv.turn hturn hs
  split at h
  · cases h
    exact ha
  obtain ⟨b, hturn, h⟩ := andThen_eq_next.mp h
  have hb := consumerClosed_queueInv.turn hturn ha
  split at h
  · cases h
    exact hb
  next hfull =>
    have hroom : HasRoom b := Nat.lt_of_le_of_ne hb.1 hfull
    obtain ⟨c, hturn, h⟩ := andThen_eq_next.mp h
    obtain ⟨hc, hroom⟩ := turn hturn hb hroom
    obtain ⟨d, hturn, h⟩ := andThen_eq_next.mp h
    obtain ⟨hd, hroom⟩ := turn hturn hc hroom
    obtain ⟨e, hturn, h⟩ := andThen_eq_next.mp h
    obtain ⟨he, hroom⟩ := turn hturn hd hroom
    cases h
    exact he.push hw hroom

theorem deliveryClosed_queueInv {w : Word} (hw : IsForm w) :
    DeliveryClosed w fun s t => QueueInv s → QueueInv t where
  refl _ h := h
  trans h1 h2 h := h2 (h1 h)
  turn := consumerClosed_queueInv.turn
  enqueue := QueueInv.enqueue hw
  diagnostic _ _ h := h
  cell _ _ h := h
  release _ h := by
    obtain ⟨hlen, hforms, _, hhand⟩ := h
    exact ⟨hlen, hforms, nofun, hhand⟩
  hold _ h := by
    obtain ⟨hlen, hforms, _, hhand⟩ := h
    refine ⟨hlen, hforms, fun g hg => ?_, hhand⟩
    cases hg
    exact hw
  drawn s := QueueInv.congr (afterDraw_cfg s) (afterDraw_queue s) (afterDraw_held s) (by rw [afterDraw_consumer])

theorem QueueInv.deferTasks (ts : List Task) {s : State} (h : QueueInv s) : QueueInv (deferTasks ts s) := by
  obtain ⟨hlen, hforms, hheld, hhand⟩ := h
  refine ⟨hlen, hforms, fun g hg => ?_, hhand⟩
  rw [deferTasks_held, Option.map_eq_some_iff] at hg
  obtain ⟨g', hg', rfl⟩ := hg
  exact hheld g' hg'

theorem QueueInv.refreshed {s : State} (h : QueueInv s) : QueueInv (Machine.commit .onMask 0 (refreshUpdate s)) := by
  have hbit : QueueInv { s with masterEnable := masterOf (s.ioByte 0x26#8) } := h
  exact ((hbit.commit .producerFlip _).commit .hyperSync _).commit .onMask 0

theorem QueueInv.routePan (d : Byte) (i : Chan) {s : State} (h : QueueInv s) : QueueInv (routePan d i s) :=
  QueueInv.commit _ _ (h.of_restSide (restSide_setVoice s i _))

theorem stepClosed_queueInv : StepClosed fun s t => QueueInv s → QueueInv t where
  refl _ h := h
  trans h1 h2 h := h2 (h1 h)
  turn := consumerClosed_queueInv.turn
  count hd hf := consumerClosed_queueInv.move (.count _ _ hd hf)
  send hf := (deliveryClosed_queueInv hf).send
  enqueue hf := QueueInv.enqueue hf
  await hg h hs := by
    obtain ⟨_, _, hheld, _⟩ := id hs
    exact (deliveryClosed_queueInv (hheld _ hg)).await h hs
  deferred ts _ := QueueInv.deferTasks ts
  channel s hb := QueueInv.of_restSide (channelUpdate_rest hb _ s)
  mastervol d s h := QueueInv.commit .masterVolume _ (s := { s with masterVolume := d }) h
  routing d s h :=
    have hbyte : QueueInv { s with routing := d } := h
    ((((hbyte.routePan d .c0).routePan d .c1).routePan d .c2).routePan d .c3).commit .routing _
  wave _ _ _ h := h
  disable s h := QueueInv.commit .onMask _ (s := { s with masterEnable := false }) h
  enable s h := QueueInv.commit .onMask _ (s := { s with masterEnable := true }) h
  refresh _ := QueueInv.refreshed
  mute _ h := h
  unmute s h := QueueInv.refreshed (s := { s with target := .real, muted := false }) h
  disabled _ h := h
  enabled s _ h := QueueInv.refreshed (s := { s with soundEnabled := true }) h
  sync b s h := QueueInv.commit .hyperSync _ (s := { s with accurateSync := b }) h
  vblank s h := QueueInv.commit .producerFlip _ (s := { s with producerFlip := !s.producerFlip }) h
  output _ h := h
  passes e s := QueueInv.of_restSide (advancePasses_rest e.toNat s)
  init _ _ _ := ⟨Nat.zero_le _, nofun, nofun, nofun⟩
  fetched _ _ h := h
  stored _ _ _ _ _ h := h

/-- Settles O10: a word goes in only below the capacity, and P sends the forms of R111 only. -/
theorem stepKeepsTheQueue : Obligations.StepKeepsTheQueue := fun _ _ h => stepClosed_queueInv.step h

end Sys2Proof.Machine
end

section
/-! What an operation other than `INIT` can do (R91), said once: its rule, the parts that the rules share, and what every
rule respects. -/

namespace Sys2Proof.Machine

/-! ### The rule of an operation -/

/-- The 18 instructions that write a channel register, each with its channel and its body (R120). -/
inductive RegisterWrite : Instr → Chan → (State → State × Bool) → Prop
  | sweep1 (d : Byte) : RegisterWrite (.writeSweep1 d) .c0 (bodySweep1 d)
  | lenduty1 (d : Byte) : RegisterWrite (.writeLenduty1 d) .c0 (bodyLenduty1 d)
  | env1 (d : Byte) : RegisterWrite (.writeEnv1 d) .c0 (bodyEnv1 d)
  | freqlo1 (d : Byte) : RegisterWrite (.writeFreqlo1 d) .c0 (bodyFreqlo1 d)
  | freqhi1 (d : Byte) : RegisterWrite (.writeFreqhi1 d) .c0 (bodyFreqhi1 d)
  | lenduty2 (d : Byte) : RegisterWrite (.writeLenduty2 d) .c1 (bodyLenduty2 d)
  | env2 (d : Byte) : RegisterWrite (.writeEnv2 d) .c1 (bodyEnv2 d)
  | freqlo2 (d : Byte) : RegisterWrite (.writeFreqlo2 d) .c1 (bodyFreqlo2 d)
  | freqhi2 (d : Byte) : RegisterWrite (.writeFreqhi2 d) .c1 (bodyFreqhi2 d)
  | dacen3 (d : Byte) : RegisterWrite (.writeDacen3 d) .c2 (bodyDacen3 d)
  | len3 (d : Byte) : RegisterWrite (.writeLen3 d) .c2 (bodyLen3 d)
  | level3 (d : Byte) : RegisterWrite (.writeLevel3 d) .c2 (bodyLevel3 d)
  | freqlo3 (d : Byte) : RegisterWrite (.writeFreqlo3 d) .c2 (bodyFreqlo3 d)
  | freqhi3 (d : Byte) : RegisterWrite (.writeFreqhi3 d) .c2 (bodyFreqhi3 d)
  | len4 (d : Byte) : RegisterWrite (.writeLen4 d) .c3 (bodyLen4 d)
  | env4 (d : Byte) : RegisterWrite (.writeEnv4 d) .c3 (bodyEnv4 d)
  | poly4 (d : Byte) : RegisterWrite (.writePoly4 d) .c3 (bodyPoly4 d)
  | trig4 (d : Byte) : RegisterWrite (.writeTrig4 d) .c3 (bodyTrig4 d)

section

variable {i : Instr} {c : Chan} {body : State → State × Bool} (h : RegisterWrite i c body)
include h

theorem RegisterWrite.registerBody : RegisterBody c body := by cases h <;> constructor

theorem RegisterWrite.channelRegister : channelRegister i = some c := by cases h <;> rfl

/-- The body asks for a trigger exactly when the gate admits one (R121, R145). -/
theorem RegisterWrite.trigger (s : State) : (body s).2 = admitsTrigger i s := by cases h <;> rfl

/-- Only the wave DAC's body switches its channel off, with data bit 7 clear (R150). -/
theorem RegisterWrite.off {s : State} (hs : (s.voice c).on = true) (ht : ((body s).1.voice c).on = false) :
    c = .c2 ∧ ∃ d : Byte, i = .writeDacen3 d ∧ d.getLsbD 7 = false := by
  cases h
  case dacen3 d =>
    have hdac : (s.ch2.voice.on && dacOf d) = false := ht
    rw [show s.ch2.voice.on = true from hs, Bool.true_and] at hdac
    exact ⟨rfl, d, rfl, hdac⟩
  all_goals exact absurd (ht.symm.trans hs) Bool.false_ne_true

end

/-- The rule that a `WRITE` runs when it is issued, or when a resync dispatches it (R120, R181). -/
inductive WriteRule : Instr → (State → Result) → Prop
  | register {i : Instr} {c : Chan} {body : State → State × Bool} (h : RegisterWrite i c body) :
      WriteRule i (channelWrite c body)
  | mastervol (d : Byte) : WriteRule (.writeMastervol d) (writeMastervol d)
  | routing (d : Byte) : WriteRule (.writeRouting d) (writeRouting d)
  | wave (j : BitVec 4) (d : Byte) : WriteRule (.writeWave j d) (writeWave j d)
  /-- No register has the address; or a resync skips it, as it does the master enable (R180, R190, R191). -/
  | nothing (i : Instr) : WriteRule i noEffect

/-- The rule that an operation other than `INIT` runs behind its guard. -/
inductive OperationRule : Instr → (State → Result) → Prop
  | write {i : Instr} {r : State → Result} (h : WriteRule i r) : OperationRule i r
  | masteren (d : Byte) : OperationRule (.writeMasteren d) (writeMasteren d)
  | advance (e : BitVec 28) : OperationRule (.advance e) (advance e)
  | getnext : OperationRule .getnext getNext
  | vblank : OperationRule .vblank vblank
  | refresh : OperationRule .refresh (refresh [])
  | mute : OperationRule .mute muteRule
  | unmute : OperationRule .unmute unmuteRule
  | setenabled (b : Bool) : OperationRule (.setenabled b) (setEnabled b)
  | setsync (b : Bool) : OperationRule (.setsync b) (setSync b)

/-- An operation other than `INIT` that completes is its rule, and P did not hold (R309). -/
theorem exec_operation {i : Instr} {s t : State} (hi : i.interface = .operation) (hinit : i ≠ .init)
    (h : exec i s = .next t) : ∃ r, OperationRule i r ∧ s.held = none ∧ r s = .next t := by
  have issued {r : State → Result} (hr : OperationRule i r) (he : issue s r = .next t) :
      ∃ r, OperationRule i r ∧ s.held = none ∧ r s = .next t := by
    obtain ⟨_, _, hheld, hrun⟩ := issue_eq_next.mp he
    exact ⟨r, hr, hheld, hrun⟩
  cases i with
  | writeSweep1 d => exact issued (.write (.register (.sweep1 d))) h
  | writeLenduty1 d => exact issued (.write (.register (.lenduty1 d))) h
  | writeEnv1 d => exact issued (.write (.register (.env1 d))) h
  | writeFreqlo1 d => exact issued (.write (.register (.freqlo1 d))) h
  | writeFreqhi1 d => exact issued (.write (.register (.freqhi1 d))) h
  | writeLenduty2 d => exact issued (.write (.register (.lenduty2 d))) h
  | writeEnv2 d => exact issued (.write (.register (.env2 d))) h
  | writeFreqlo2 d => exact issued (.write (.register (.freqlo2 d))) h
  | writeFreqhi2 d => exact issued (.write (.register (.freqhi2 d))) h
  | writeDacen3 d => exact issued (.write (.register (.dacen3 d))) h
  | writeLen3 d => exact issued (.write (.register (.len3 d))) h
  | writeLevel3 d => exact issued (.write (.register (.level3 d))) h
  | writeFreqlo3 d => exact issued (.write (.register (.freqlo3 d))) h
  | writeFreqhi3 d => exact issued (.write (.register (.freqhi3 d))) h
  | writeLen4 d => exact issued (.write (.register (.len4 d))) h
  | writeEnv4 d => exact issued (.write (.register (.env4 d))) h
  | writePoly4 d => exact issued (.write (.register (.poly4 d))) h
  | writeTrig4 d => exact issued (.write (.register (.trig4 d))) h
  | writeMastervol d => exact issued (.write (.mastervol d)) h
  | writeRouting d => exact issued (.write (.routing d)) h
  | writeWave j d => exact issued (.write (.wave j d)) h
  | writeMasteren d => exact issued (.masteren d) h
  | advance e => exact issued (.advance e) h
  | getnext => exact issued .getnext h
  | vblank => exact issued .vblank h
  | init => exact absurd rfl hinit
  | refresh => exact issued .refresh h
  | mute => exact issued .mute h
  | unmute => exact issued .unmute h
  | setenabled b => exact issued (.setenabled b) h
  | setsync b => exact issued (.setsync b) h
  | writeUnmapped15 _ | writeUnmapped1F _ | writeUnmapped27 _ | writeUnmapped28 _ | writeUnmapped29 _
  | writeUnmapped2A _ | writeUnmapped2B _ | writeUnmapped2C _ | writeUnmapped2D _ | writeUnmapped2E _
  | writeUnmapped2F _ | writeOut0 _ _ | writeOut4 _ _ | writeOut5 _ _ | writeOut6 _ _ | writeOut7 _ _
  | writeOut8 _ _ | writeOut9 _ _ | writeOutA _ _ | writeOutB _ _ | writeOutC _ _ | writeOutD _ _ | writeOutE _ _
  | writeOutF _ _ => exact issued (.write (.nothing _)) h
  | refusedA _ | refusedB _ | refusedC _ | refusedD _ | refusedE _ | refusedF _ => cases h
  | msgStart _ | msgUpdate _ | msgUpdateAll | msgMasterVolumeAll | msgMuteAll | msgUnmuteAll | msgReserved _ =>
    cases hi

/-- The instruction that a dispatch of byte `d` to the address `a` runs (R120). -/
abbrev dispatched (a d : Byte) : Instr := decodeWrite (a.extractLsb' 4 4) (a.extractLsb' 0 4) d

theorem dispatch_rule {a d : Byte} {s t : State} (h : dispatch a d s = .next t) :
    ∃ r, WriteRule (dispatched a d) r ∧ r s = .next t := by
  unfold dispatch at h
  unfold dispatched
  generalize decodeWrite (a.extractLsb' 4 4) (a.extractLsb' 0 4) d = i at h ⊢
  split at h
  · exact ⟨_, .register (.sweep1 _), h⟩
  · exact ⟨_, .register (.lenduty1 _), h⟩
  · exact ⟨_, .register (.env1 _), h⟩
  · exact ⟨_, .register (.freqlo1 _), h⟩
  · exact ⟨_, .register (.freqhi1 _), h⟩
  · exact ⟨_, .register (.lenduty2 _), h⟩
  · exact ⟨_, .register (.env2 _), h⟩
  · exact ⟨_, .register (.freqlo2 _), h⟩
  · exact ⟨_, .register (.freqhi2 _), h⟩
  · exact ⟨_, .register (.dacen3 _), h⟩
  · exact ⟨_, .register (.len3 _), h⟩
  · exact ⟨_, .register (.level3 _), h⟩
  · exact ⟨_, .register (.freqlo3 _), h⟩
  · exact ⟨_, .register (.freqhi3 _), h⟩
  · exact ⟨_, .register (.len4 _), h⟩
  · exact ⟨_, .register (.env4 _), h⟩
  · exact ⟨_, .register (.poly4 _), h⟩
  · exact ⟨_, .register (.trig4 _), h⟩
  · exact ⟨_, .mastervol _, h⟩
  · exact ⟨_, .routing _, h⟩
  · exact ⟨_, .wave _ _, h⟩
  · exact ⟨_, .nothing _, h⟩

/-! ### Tasks -/

/-- A preorder that each of the tasks respects, and the putting off of tasks, the run of the tasks respects. -/
theorem runTasks_closed {R : State → State → Prop} (refl : ∀ s, R s s) (trans : ∀ {s t u}, R s t → R t u → R s u)
    (deferred : ∀ ts s, R s (deferTasks ts s)) {ks : List Task}
    (hks : ∀ k ∈ ks, ∀ {s t}, runTask k s = .next t → R s t) :
    ∀ {s t : State}, runTasks ks s = .next t → R s t := by
  induction ks with
  | nil =>
    intro s t h
    cases h
    exact refl s
  | cons k ks ih =>
    intro s t h
    obtain ⟨u, hk, h⟩ := andThen_eq_next.mp h
    refine trans (hks k List.mem_cons_self hk) ?_
    split at h
    · cases h
      exact deferred ks u
    · exact ih (fun k hk => hks k (List.mem_cons_of_mem _ hk)) h

/-- The tasks of a resync: dispatches, re-triggers, and what its caller adds (R180). -/
theorem mem_resyncTasks {after : List Task} {s : State} {k : Task}
    (h : k ∈ bulkAddresses.map .bulk ++ retriggerTasks s ++ after) :
    (∃ a, k = .bulk a) ∨ (∃ i, k = .retrigger i (s.voice i).on) ∨ k ∈ after := by
  rcases List.mem_append.mp h with h | h
  · rcases List.mem_append.mp h with h | h
    · obtain ⟨a, _, rfl⟩ := List.mem_map.mp h
      exact .inl ⟨a, rfl⟩
    · simp only [retriggerTasks, List.mem_cons, List.not_mem_nil, or_false] at h
      rcases h with rfl | rfl | rfl | rfl
      · exact .inr (.inl ⟨.c0, rfl⟩)
      · exact .inr (.inl ⟨.c1, rfl⟩)
      · exact .inr (.inl ⟨.c2, rfl⟩)
      · exact .inr (.inl ⟨.c3, rfl⟩)
  · exact .inr (.inr h)

/-! ### What every operation respects -/

/-- The state with everything blanked that P alone reads and writes: the records, the global bytes, the timers' minimum,
the Sample Buffer and the outputs. What is left are the shared blocks, the queue, the diagnostics, the hold, the gates, and
what belongs to C and to H. -/
def sharedSide (s : State) : State :=
  { s with
    ch0 := ⟨Voice.reset, Envelope.reset, Sweep.reset, 0, 0, 0⟩
    ch1 := ⟨Voice.reset, Envelope.reset, 0, 0, 0⟩
    ch2 := ⟨Voice.reset, 0, 0, 0, false⟩
    ch3 := ⟨Voice.reset, Envelope.reset, 0, 0⟩
    masterEnable := false, accurateSync := false, masterVolume := 0, routing := 0, nextEvent := 0
    producerFlip := false, sampleBuf := [], events := [] }

/-- A preorder on states that equality of the shared sides implies and that the writes of an operation to the shared side
respect: the commits, the sends, the putting off of tasks. -/
structure OperationClosed (R : State → State → Prop) : Prop where
  own      : ∀ {s t}, sharedSide t = sharedSide s → R s t
  trans    : ∀ {s t u}, R s t → R t u → R s u
  commit   : ∀ {f : Field} (v : Word) (s : State), f.owner = .producer → R s (commit f v s)
  send     : ∀ {k c s t}, send k c s = .next t → R s t
  deferred : ∀ (ts : List Task) (s : State), R s (deferTasks ts s)

section Closed

variable {R : State → State → Prop} (C : OperationClosed R)
include C

/-- P writes something of its own, and then a field. -/
theorem OperationClosed.ownCommit {s : State} {f : Field} (v : Word) (u : State) (hu : sharedSide u = sharedSide s)
    (hf : f.owner = .producer) : R s (Machine.commit f v u) := C.trans (C.own hu) (C.commit v u hf)

theorem OperationClosed.passClosed : PassClosed R where
  refl _ := C.own rfl
  trans := C.trans
  records _ _ _ _ _ _ := C.own rfl
  signal _ _ := C.own rfl
  commit f v s hf := C.commit v s (by
    simp only [List.mem_cons, List.not_mem_nil, or_false] at hf
    rcases hf with rfl | rfl | rfl | rfl | rfl <;> rfl)

theorem OperationClosed.channel {c : Chan} {body : State → State × Bool} (hb : RegisterBody c body) (on : Bool)
    (s : State) : R s (channelUpdate c on (body s)) := by
  have records : R s (localUpdate c (body s)) := by
    refine C.own ?_
    have hbody : sharedSide (body s).1 = sharedSide s := by cases hb <;> rfl
    unfold localUpdate
    split
    · exact Eq.trans (by cases c <;> rfl) hbody
    · exact hbody
  have params (u : State) : R u (commitParams c u) := by
    have two := C.trans (C.commit (f := .vol c) ((u.vol c).setWidth 32) u rfl)
      (C.commit (f := .freq c) (((Machine.commit (.vol c) ((u.vol c).setWidth 32) u).freq c).setWidth 32) _ rfl)
    cases c
    case c0 | c1 => exact C.trans two (C.commit _ _ rfl)
    case c2 | c3 => exact two
  have bits (trig : Bool) (u : State) : R u (commitOn c on trig u) := by
    unfold commitOn
    dsimp only
    split <;> split
    · exact C.trans (C.commit _ u rfl) (C.commit _ _ rfl)
    · exact C.commit _ u rfl
    · exact C.commit _ u rfl
    · exact C.own rfl
  have reports (u : State) : R u (reportTimers c u) := by
    rw [reportTimers_eq]
    exact C.own rfl
  exact C.trans records (C.trans (params _) (C.trans (bits _ _) (reports _)))

theorem OperationClosed.channelWrite {c : Chan} {body : State → State × Bool} (hb : RegisterBody c body)
    {s t : State} (h : channelWrite c body s = .next t) : R s t := by
  refine C.trans (C.channel hb (s.voice c).on s) ?_
  unfold Machine.channelWrite at h
  dsimp only at h
  split at h
  · exact C.send h
  split at h
  · exact C.send h
  · cases h
    exact C.own rfl

theorem OperationClosed.routePan (d : Byte) (i : Chan) (s : State) : R s (routePan d i s) :=
  C.ownCommit _ (setVoice i { s.voice i with pan := panOf d i } s) (by cases i <;> rfl) rfl

theorem OperationClosed.routing (d : Byte) (s : State) : R s (routingUpdate d s) :=
  have hbyte : R s { s with routing := d } := C.own rfl
  C.trans hbyte <| C.trans (C.routePan d .c0 _) <| C.trans (C.routePan d .c1 _) <|
  C.trans (C.routePan d .c2 _) <| C.trans (C.routePan d .c3 _) (C.commit _ _ rfl)

theorem OperationClosed.write {i : Instr} {r : State → Result} (hr : WriteRule i r) {s t : State}
    (h : r s = .next t) : R s t := by
  cases hr with
  | register hw => exact C.channelWrite hw.registerBody h
  | mastervol d => exact C.trans (C.ownCommit (d.setWidth 32) { s with masterVolume := d } rfl rfl) (C.send h)
  | routing d => exact C.trans (C.routing d s) (C.send h)
  | wave j d =>
    cases h
    exact C.own rfl
  | nothing =>
    cases h
    exact C.own rfl

theorem OperationClosed.dispatch {a d : Byte} {s t : State} (h : dispatch a d s = .next t) : R s t := by
  obtain ⟨r, hr, h⟩ := dispatch_rule h
  exact C.write hr h

/-- A resync, when what its caller adds is respected too. -/
theorem OperationClosed.resync {after : List Task} (hafter : ∀ k ∈ after, ∀ {s t}, runTask k s = .next t → R s t)
    {s t : State} (h : resync after s = .next t) : R s t := by
  refine C.trans (C.commit (f := .onMask) 0 s rfl)
    (runTasks_closed (fun _ => C.own rfl) C.trans C.deferred (fun k hk {u v} hrun => ?_) h)
  rcases mem_resyncTasks hk with ⟨a, rfl⟩ | ⟨i, rfl⟩ | hk
  · exact C.dispatch hrun
  · simp only [runTask] at hrun
    split at hrun
    · exact C.dispatch hrun
    · cases hrun
      exact C.own rfl
  · exact hafter k hk hrun

theorem OperationClosed.refresh {after : List Task} (hafter : ∀ k ∈ after, ∀ {s t}, runTask k s = .next t → R s t)
    {s t : State} (h : refresh after s = .next t) : R s t :=
  C.trans (C.ownCommit (flagWord s.producerFlip) { s with masterEnable := masterOf (s.ioByte 0x26#8) } rfl rfl) <|
  C.trans (C.commit (f := .hyperSync) (flagWord s.accurateSync) _ rfl) (C.resync hafter h)

/-- Every operation but `INIT`, when those that set a gate respect the relation (R289 to R291). -/
theorem OperationClosed.operation {i : Instr} {r : State → Result} (hr : OperationRule i r) {s t : State}
    (hmute : i = .mute → muteRule s = .next t → R s t) (hunmute : i = .unmute → unmuteRule s = .next t → R s t)
    (hset : ∀ b, i = .setenabled b → setEnabled b s = .next t → R s t) (h : r s = .next t) : R s t := by
  cases hr with
  | write hw => exact C.write hw h
  | masteren d =>
    unfold writeMasteren at h
    split at h
    · exact C.trans (C.ownCommit 0 { s with masterEnable := false } rfl rfl) (C.send h)
    split at h
    · have hbit : R s { s with masterEnable := true } := C.own rfl
      exact C.trans hbit (C.resync (after := []) (List.forall_mem_nil _) h)
    · cases h
      exact C.own rfl
  | advance e =>
    have hpasses : R s (advancePasses e.toNat s).state := C.passClosed.advancePasses e.toNat s
    unfold Machine.advance at h
    split at h
    · cases h
    dsimp only at h
    split at h
    · exact C.trans hpasses (C.send h)
    · cases h
      exact hpasses
  | getnext =>
    cases h
    exact C.own rfl
  | vblank =>
    cases h
    exact C.ownCommit _ { s with producerFlip := !s.producerFlip } rfl rfl
  | refresh => exact C.refresh (after := []) (List.forall_mem_nil _) h
  | mute => exact hmute rfl h
  | unmute => exact hunmute rfl h
  | setenabled b => exact hset b rfl h
  | setsync b =>
    cases h
    exact C.ownCommit _ { s with accurateSync := b } rfl rfl

end Closed

end Sys2Proof.Machine
end

section
/-! Who may change what: the single writer of each field (R50), the closed gates (R32, R33), the on flags (R21). -/

namespace Sys2Proof.Machine

/-! ### The consumer writes its own fields and the handshake cell (R50) -/

/-- The bytes outside the consumer's own fields and the handshake cell, and the configuration that places them. -/
theorem consumerClosed_memByte : ConsumerClosed fun s t =>
    t.cfg = s.cfg ∧ ∀ a, ¬inConsumerField s a → ¬inField s.cfg.rsbAddr .syncCycle a → t.memByte a = s.memByte a where
  refl _ := ⟨rfl, fun _ _ _ => rfl⟩
  trans := by
    rintro s t u ⟨hc, h⟩ ⟨hc', h'⟩
    refine ⟨hc'.trans hc, fun a hown hcell => (h' a ?_ ?_).trans (h a hown hcell)⟩
    · simpa only [inConsumerField, hc] using hown
    · simpa only [hc] using hcell
  taken _ _ := ⟨rfl, fun _ _ _ => rfl⟩
  move hm := by
    cases hm with
    | stay | dequeue => exact ⟨rfl, fun _ _ _ => rfl⟩
    | count => exact ⟨rfl, fun a hown _ => memByte_put_rsb fun hf => hown (.inl hf)⟩
    | acknowledge => exact ⟨rfl, fun a hown _ => memByte_put_rsb fun hf => hown (.inr (.inl hf))⟩
    | finishAcknowledge => exact ⟨rfl, fun a _ hcell => memByte_put_rsb hcell⟩
    | own f v hf =>
      refine ⟨rfl, fun a hown _ => memByte_put_rsb fun hi => hown ?_⟩
      rcases hf with rfl | rfl | rfl
      · exact .inr (.inl hi)
      · exact .inr (.inr (.inr (.inl hi)))
      · exact .inr (.inr (.inr (.inr hi)))
    | flip f v g hf =>
      refine ⟨rfl, fun a hown _ => memByte_put_rsb fun hi => hown ?_⟩
      rcases hf with rfl | rfl | rfl
      · exact .inr (.inr (.inl hi))
      · exact .inr (.inl hi)
      · exact .inr (.inr (.inr (.inl hi)))

section ProducerSide

variable {s t : State} (h : producerSide t = producerSide s)
include h

theorem producerSide_modes : ModesKept s t := by
  have hr := recordSide_of_producerSide h
  exact ⟨recordSide_cfg hr, recordSide_masterEnable hr, recordSide_soundEnabled hr, recordSide_muted hr,
    recordSide_target hr, recordSide_accurateSync hr, recordSide_started hr, recordSide_sampleBuf hr, recordSide_io hr,
    recordSide_stream hr⟩

theorem producerSide_channels : ChannelsKept s t := ledger_channels (ledger_of_recordSide (recordSide_of_producerSide h))

theorem producerSide_bytes : BytesKept s t := by
  have hr := recordSide_of_producerSide h
  exact ⟨recordSide_masterVolume hr, recordSide_routing hr, recordSide_producerFlip hr⟩

theorem producerSide_held : t.held = s.held := congrArg (fun u => u.held) h
theorem producerSide_diagCount : t.diagCount = s.diagCount := congrArg (fun u => u.diagCount) h
theorem producerSide_events : t.events = s.events := congrArg (fun u => u.events) h
theorem producerSide_nextEvent : t.nextEvent = s.nextEvent := congrArg (fun u => u.nextEvent) h
theorem producerSide_draws : t.draws = s.draws := congrArg (fun u => u.draws) h
theorem producerSide_drawCount : t.drawCount = s.drawCount := congrArg (fun u => u.drawCount) h

end ProducerSide

/-! ### P leaves the consumer's fields alone (R50) -/

/-- The consumer's own fields of the real block, and its half-done moves. -/
structure ConsumerPart where
  recvCount          : Word
  consumerCycle      : Word
  consumerFlip       : Bool
  flipInProgress     : Bool
  transferInProgress : Bool
  consumer           : Consumer

/-- The consumer's part of a state. -/
def State.consumerPart (s : State) : ConsumerPart :=
  ⟨s.rsb.recvCount, s.rsb.consumerCycle, s.rsb.consumerFlip, s.rsb.flipInProgress, s.rsb.transferInProgress,
    s.consumer⟩

theorem consumerPart_of_sentSide {s t : State} (h : sentSide t = sentSide s) : t.consumerPart = s.consumerPart :=
  congrArg State.consumerPart (a₁ := sentSide t) (a₂ := sentSide s) h

/-- A commit of a field of P leaves the consumer's part alone. -/
theorem commit_consumerPart {f : Field} (v : Word) (s : State) (hf : f.owner = .producer) :
    (commit f v s).consumerPart = s.consumerPart := by
  rcases commit_eq s f v with h | h | h <;> rw [h]
  · cases f
    case recvCount | syncCycle | consumerCycle | consumerFlip | flipInProgress | transferInProgress => cases hf
    all_goals rfl
  · rfl

/-- While the consumer makes no move, an operation leaves its part alone and lists it no move. -/
def KeepsConsumer (s t : State) : Prop := s.Silent → t.Silent ∧ t.consumerPart = s.consumerPart

theorem KeepsConsumer.of_sentSide {s t : State} (h : sentSide t = sentSide s) : KeepsConsumer s t := fun hs =>
  ⟨(sentSide_turns h).trans hs, consumerPart_of_sentSide h⟩

theorem KeepsConsumer.trans {s t u : State} (h : KeepsConsumer s t) (h' : KeepsConsumer t u) : KeepsConsumer s u :=
  fun hs => by
    obtain ⟨ht, hp⟩ := h hs
    obtain ⟨hu, hp'⟩ := h' ht
    exact ⟨hu, hp'.trans hp⟩

theorem KeepsConsumer.enqueue {w : Word} {s t : State} (h : enqueue w s = .next t) : KeepsConsumer s t := fun hs => by
  obtain ⟨u, hu, hside, _⟩ := enqueue_silent_spec w hs
  cases hu.symm.trans h
  exact KeepsConsumer.of_sentSide hside hs

theorem operationClosed_keepsConsumer : OperationClosed KeepsConsumer where
  own {s t} h hs :=
    ⟨Eq.trans (congrArg State.turns (a₁ := sharedSide t) (a₂ := sharedSide s) h) hs,
      congrArg State.consumerPart (a₁ := sharedSide t) (a₂ := sharedSide s) h⟩
  trans := KeepsConsumer.trans
  commit v s hf hs := ⟨Eq.trans (commit_turns s _ v) hs, commit_consumerPart v s hf⟩
  send {k c s t} h hs := by
    obtain ⟨u, hu, hside, _⟩ := send_silent k c hs
    cases hu.symm.trans h
    exact KeepsConsumer.of_sentSide hside hs
  deferred _ _ hs := ⟨hs, rfl⟩

theorem OperationRule.keepsConsumer {i : Instr} {r : State → Result} (hr : OperationRule i r) {s t : State}
    (h : r s = .next t) : KeepsConsumer s t := by
  have C := operationClosed_keepsConsumer
  have word : ∀ k ∈ [Task.unmuteWord], ∀ {u v}, runTask k u = .next v → KeepsConsumer u v := by
    intro k hk u v hrun
    rw [List.mem_singleton.mp hk, runTask] at hrun
    split at hrun
    · exact KeepsConsumer.enqueue hrun
    · cases hrun
      exact C.own rfl
  refine C.operation hr (fun _ h => ?mute) (fun _ h => ?unmute) (fun b _ h => ?setenabled) h
  case mute =>
    unfold muteRule at h
    split at h
    · cases h
      exact C.own rfl
    · obtain ⟨u, hsent, h⟩ := andThen_eq_next.mp h
      cases h
      have hu : KeepsConsumer s u := by
        split at hsent
        · exact KeepsConsumer.enqueue hsent
        · cases hsent
          exact C.own rfl
      exact hu.trans fun hs => ⟨hs, rfl⟩
  case unmute =>
    unfold unmuteRule at h
    split at h
    · have hgate : KeepsConsumer s { s with target := .real, muted := false } := fun hs => ⟨hs, rfl⟩
      exact hgate.trans (C.refresh word h)
    · cases h
      exact C.own rfl
  case setenabled =>
    have hgate : KeepsConsumer s { s with soundEnabled := b } := fun hs => ⟨hs, rfl⟩
    unfold setEnabled at h
    split at h
    · exact hgate.trans (C.refresh (after := []) (List.forall_mem_nil _) h)
    · cases h
      exact hgate

/-! ### A write of the consumer by address (R309 (c)) -/

/-- The ranges of the two blocks and of the Sample Buffer end inside the 32-bit space and are apart from each other. -/
structure RangesApart (cfg : Config) : Prop where
  rsbEnd  : cfg.rsbAddr.toNat + blockSize ≤ 2 ^ 32
  dsbEnd  : cfg.dsbAddr.toNat + blockSize ≤ 2 ^ 32
  bufEnd  : cfg.sampleBufAddr.toNat + sampleBufSize ≤ 2 ^ 32
  blocks  : cfg.rsbAddr.toNat + blockSize ≤ cfg.dsbAddr.toNat ∨ cfg.dsbAddr.toNat + blockSize ≤ cfg.rsbAddr.toNat
  realBuf : cfg.rsbAddr.toNat + blockSize ≤ cfg.sampleBufAddr.toNat
    ∨ cfg.sampleBufAddr.toNat + sampleBufSize ≤ cfg.rsbAddr.toNat
  dummyBuf : cfg.dsbAddr.toNat + blockSize ≤ cfg.sampleBufAddr.toNat
    ∨ cfg.sampleBufAddr.toNat + sampleBufSize ≤ cfg.dsbAddr.toNat

theorem rangesApart_of_admitted {cfg : Config} (h : configAdmitted cfg = true) : RangesApart cfg := by
  simp only [configAdmitted, decide_eq_true_eq, disjointRanges, Bool.or_eq_true] at h
  obtain ⟨_, _, _, _, _, _, _, hr, hd, hb, hrd, hrb, hdb⟩ := h
  exact ⟨hr, hd, hb, hrd, hrb, hdb⟩

/-- The address of byte `k` of a range that ends inside the 32-bit space. -/
theorem toNat_base_add {base : Word} {size k : Nat} (hend : base.toNat + size ≤ 2 ^ 32) (hk : k < size) :
    (base + BitVec.ofNat 32 k).toNat = base.toNat + k := by
  rw [BitVec.toNat_add, BitVec.toNat_ofNat]
  omega

section Locate

variable {cfg : Config} (h : RangesApart cfg)
include h

theorem locate_rsb_byte {k : Nat} (hk : k < blockSize) :
    locate cfg (cfg.rsbAddr + BitVec.ofNat 32 k).toNat = some (.realBlock, k) := by
  rw [toNat_base_add h.rsbEnd hk, locate, if_pos (by omega), Nat.add_sub_cancel_left]

theorem locate_dsb_byte {k : Nat} (hk : k < blockSize) :
    locate cfg (cfg.dsbAddr + BitVec.ofNat 32 k).toNat = some (.dummyBlock, k) := by
  have hapart := h.blocks
  rw [toNat_base_add h.dsbEnd hk, locate, if_neg (by omega), if_pos (by omega), Nat.add_sub_cancel_left]

theorem locate_buf_byte {k : Nat} (hk : k < sampleBufSize) :
    locate cfg (cfg.sampleBufAddr + BitVec.ofNat 32 k).toNat = some (.sampleBuffer, k) := by
  have hreal := h.realBuf
  have hdummy := h.dummyBuf
  rw [toNat_base_add h.bufEnd hk, locate, if_neg (by omega), if_neg (by omega), if_pos (by omega),
    Nat.add_sub_cancel_left]

end Locate

/-- The layout of R64: a whole access at a field's offset reaches the field, which lies inside the block. -/
theorem fieldAt_offset (f : Field) : fieldAt f.offset f.size = some f ∧ f.offset < blockSize := by
  have key : ∀ g ∈ allFields, fieldAt g.offset g.size = some g ∧ g.offset < blockSize := by decide
  exact key f (mem_allFields f)

/-- A write by the consumer to a whole field of the real block is the write of that field. -/
theorem consumerMove_write_field {s : State} (hc : configAdmitted s.cfg = true) (f : Field) (v : Word) :
    consumerMove (.write (s.cfg.rsbAddr + BitVec.ofNat 32 f.offset) f.size v) s
      = consumerPut f (BitVec.ofNat 32 (v.toNat % 256 ^ f.size)) s := by
  obtain ⟨hfield, hoff⟩ := fieldAt_offset f
  simp only [consumerMove, consumerWrite, locate_rsb_byte (rangesApart_of_admitted hc) hoff, hfield]

theorem consumerPut_producer {f : Field} (hf : f.owner = .producer) (v : Word) (s : State) :
    consumerPut f v s = .fault .wrongWriter := by
  cases f
  case recvCount | syncCycle | consumerCycle | consumerFlip | flipInProgress | transferInProgress => cases hf
  all_goals rfl

/-- Settles O57: the consumer's steps, the operations of P and the consumer's writes by address, each by its frame. -/
theorem everyFieldHasItsOneWriter : Obligations.EveryFieldHasItsOneWriter := by
  refine ⟨fun s t a h hown hcell => ?consumer, fun i s t hi hinit hs h => ?producer, fun s f k v hc => ?faults⟩
  case consumer =>
    have hp := consumerTurn_producerSide h
    exact ⟨(consumerClosed_memByte.turn h).2 a hown hcell, producerSide_channels hp, producerSide_modes hp,
      producerSide_bytes hp, producerSide_held hp, producerSide_diagCount hp, producerSide_events hp,
      producerSide_nextEvent hp, producerSide_draws hp, producerSide_drawCount hp, hp⟩
  case producer =>
    obtain ⟨r, hr, _, hrun⟩ := exec_operation hi hinit h
    have hp : t.consumerPart = s.consumerPart := (hr.keepsConsumer hrun hs).2
    exact ⟨congrArg ConsumerPart.recvCount hp, congrArg ConsumerPart.consumerCycle hp,
      congrArg ConsumerPart.consumerFlip hp, congrArg ConsumerPart.flipInProgress hp,
      congrArg ConsumerPart.transferInProgress hp, congrArg ConsumerPart.consumer hp⟩
  case faults =>
    have hr := rangesApart_of_admitted hc
    refine ⟨fun hf => ?field, fun hv => ?cell, fun hk n => ?dummy, fun hk n => ?buffer⟩
    case field => rw [consumerMove_write_field hc, consumerPut_producer hf]
    case cell =>
      have hv' : BitVec.ofNat 32 (v.toNat % 256 ^ Field.syncCycle.size) = v := by
        apply BitVec.eq_of_toNat_eq
        have hlt := v.isLt
        simp only [Field.size, BitVec.toNat_ofNat]
        omega
      have hput := consumerMove_write_field hc .syncCycle v
      rw [hv'] at hput
      exact hput.trans (if_neg hv)
    case dummy => simp only [consumerMove, consumerWrite, locate_dsb_byte hr hk]
    case buffer => simp only [consumerMove, consumerWrite, locate_buf_byte hr hk]

end Sys2Proof.Machine
end

section
/-! The closed gates (R32, R33, R246, R288). -/

namespace Sys2Proof.Machine

/-! ### P disabled -/

/-- While P is disabled: it stays so, and neither block, nor the queue, nor a diagnostic count changes; P does not begin
to hold. -/
def KeepsDisabled (s t : State) : Prop :=
  s.soundEnabled = false → t.soundEnabled = false ∧ t.rsb = s.rsb ∧ t.dsb = s.dsb ∧ t.queue = s.queue
    ∧ t.diagCount = s.diagCount ∧ (s.held = none → t.held = none)

theorem KeepsDisabled.refl (s : State) : KeepsDisabled s s := fun h => ⟨h, rfl, rfl, rfl, rfl, id⟩

theorem KeepsDisabled.trans {s t u : State} (h : KeepsDisabled s t) (h' : KeepsDisabled t u) : KeepsDisabled s u :=
  fun he => by
    obtain ⟨he', hr, hd, hq, hc, hh⟩ := h he
    obtain ⟨he'', hr', hd', hq', hc', hh'⟩ := h' he'
    exact ⟨he'', hr'.trans hr, hd'.trans hd, hq'.trans hq, hc'.trans hc, hh' ∘ hh⟩

theorem commit_disabled {s : State} (h : s.soundEnabled = false) (f : Field) (v : Word) : commit f v s = s := by
  simp [commit, h]

theorem send_disabled {s : State} (h : s.soundEnabled = false) (k : MsgKind) (c : MsgChan) :
    send k c s = .next s := if_pos (.inl h)

theorem operationClosed_keepsDisabled : OperationClosed KeepsDisabled where
  own {s t} h he := by
    have hproj {α : Type} (f : State → α) : f (sharedSide t) = f (sharedSide s) := congrArg f h
    exact ⟨(hproj State.soundEnabled).trans he, hproj State.rsb, hproj State.dsb, hproj State.queue,
      hproj State.diagCount, (hproj State.held).trans⟩
  trans := KeepsDisabled.trans
  commit v s _ he := by
    rw [commit_disabled he]
    exact KeepsDisabled.refl s he
  send {k c s t} h he := by
    rw [send_disabled he] at h
    cases h
    exact KeepsDisabled.refl s he
  deferred ts s he := ⟨he, rfl, rfl, rfl, rfl, fun hh => by rw [deferTasks_held, hh]; rfl⟩

/-- Every operation but `INIT` and `SETENABLED 1` (R162, R246, R288). -/
theorem OperationRule.keepsDisabled {i : Instr} {r : State → Result} (hr : OperationRule i r)
    (hset : i ≠ .setenabled true) {s t : State} (h : r s = .next t) : KeepsDisabled s t := by
  have C := operationClosed_keepsDisabled
  have word : ∀ k ∈ [Task.unmuteWord], ∀ {u v}, runTask k u = .next v → KeepsDisabled u v := by
    intro k hk u v hrun he
    rw [List.mem_singleton.mp hk, runTask, if_neg (by simp [he])] at hrun
    cases hrun
    exact KeepsDisabled.refl u he
  intro he
  refine C.operation hr (fun _ h => ?mute) (fun _ h => ?unmute) (fun b hb h => ?setenabled) h he
  case mute =>
    unfold muteRule at h
    split at h
    · cases h
      exact KeepsDisabled.refl s
    · rw [if_neg (by simp [he]), andThen_next] at h
      cases h
      exact fun he => ⟨he, rfl, rfl, rfl, rfl, id⟩
  case unmute =>
    have hgate : KeepsDisabled s { s with target := .real, muted := false } := fun he => ⟨he, rfl, rfl, rfl, rfl, id⟩
    unfold unmuteRule at h
    split at h
    · exact hgate.trans (C.refresh word h)
    · cases h
      exact KeepsDisabled.refl s
  case setenabled =>
    cases b with
    | true => exact absurd hb hset
    | false =>
      rw [setEnabled, if_neg (by simp)] at h
      cases h
      exact fun _ => ⟨rfl, rfl, rfl, rfl, rfl, id⟩

/-! ### P muted -/

/-- While P is muted and writes the dummy block: it stays so, and neither the real block, nor the queue, nor a diagnostic
count changes; P does not begin to hold. -/
def KeepsMuted (s t : State) : Prop :=
  s.muted = true → s.target = .dummy → t.muted = true ∧ t.target = .dummy ∧ t.rsb = s.rsb ∧ t.queue = s.queue
    ∧ t.diagCount = s.diagCount ∧ (s.held = none → t.held = none)

theorem KeepsMuted.refl (s : State) : KeepsMuted s s := fun hm ht => ⟨hm, ht, rfl, rfl, rfl, id⟩

theorem KeepsMuted.trans {s t u : State} (h : KeepsMuted s t) (h' : KeepsMuted t u) : KeepsMuted s u :=
  fun hm ht => by
    obtain ⟨hm', ht', hr, hq, hc, hh⟩ := h hm ht
    obtain ⟨hm'', ht'', hr', hq', hc', hh'⟩ := h' hm' ht'
    exact ⟨hm'', ht'', hr'.trans hr, hq'.trans hq, hc'.trans hc, hh' ∘ hh⟩

/-- A commit to the dummy block leaves the real one alone (R33). -/
theorem commit_rsb_dummy {s : State} (h : s.target = .dummy) (f : Field) (v : Word) :
    (commit f v s).rsb = s.rsb := by
  unfold commit
  split
  · rw [h]
  · rfl

theorem send_muted {s : State} (h : s.muted = true) (k : MsgKind) (c : MsgChan) : send k c s = .next s :=
  if_pos (.inr h)

theorem operationClosed_keepsMuted : OperationClosed KeepsMuted where
  own {s t} h hm ht := by
    have hproj {α : Type} (f : State → α) : f (sharedSide t) = f (sharedSide s) := congrArg f h
    exact ⟨(hproj State.muted).trans hm, (hproj State.target).trans ht, hproj State.rsb, hproj State.queue,
      hproj State.diagCount, (hproj State.held).trans⟩
  trans := KeepsMuted.trans
  commit v s _ hm ht :=
    ⟨Eq.trans (commit_muted s _ v) hm, Eq.trans (commit_target s _ v) ht, commit_rsb_dummy ht _ v, commit_queue s _ v,
      commit_diagCount s _ v, Eq.trans (commit_held s _ v)⟩
  send {k c s t} h hm := by
    rw [send_muted hm] at h
    cases h
    exact KeepsMuted.refl s hm
  deferred ts s hm ht := ⟨hm, ht, rfl, rfl, rfl, fun hh => by rw [deferTasks_held, hh]; rfl⟩

/-- Every operation but `INIT` and `UNMUTE` (R163, R246, R288). -/
theorem OperationRule.keepsMuted {i : Instr} {r : State → Result} (hr : OperationRule i r) (hunmute : i ≠ .unmute)
    {s t : State} (h : r s = .next t) : KeepsMuted s t := by
  have C := operationClosed_keepsMuted
  intro hm
  refine C.operation hr (fun _ h => ?mute) (fun hi _ => absurd hi hunmute) (fun b _ h => ?setenabled) h hm
  case mute =>
    rw [muteRule, if_pos hm] at h
    cases h
    exact KeepsMuted.refl s
  case setenabled =>
    have hgate : KeepsMuted s { s with soundEnabled := b } := fun hm ht => ⟨hm, ht, rfl, rfl, rfl, id⟩
    unfold setEnabled at h
    split at h
    · exact hgate.trans (C.refresh (after := []) (List.forall_mem_nil _) h)
    · cases h
      exact hgate

/-- Settles O59: a closed gate stops every commit to the block it guards and every send, and only the operation that
opens the gate gets past it. -/
theorem closedGatesLeaveTheSharedState : Obligations.ClosedGatesLeaveTheSharedState := by
  intro i s t hi hinit h
  obtain ⟨r, hr, hheld, hrun⟩ := exec_operation hi hinit h
  refine ⟨fun he hset => ?disabled, fun hm ht hunmute => ?muted⟩
  case disabled =>
    obtain ⟨_, hrsb, hdsb, hqueue, hdiag, hhold⟩ := hr.keepsDisabled hset hrun he
    exact ⟨hrsb, hdsb, hqueue, hdiag, hhold hheld⟩
  case muted =>
    obtain ⟨_, _, hrsb, hqueue, hdiag, hhold⟩ := hr.keepsMuted hunmute hrun hm ht
    exact ⟨hrsb, hqueue, hdiag, hhold hheld⟩

end Sys2Proof.Machine
end

section
/-! The on flags over one operation (R21, R164, R185). -/

namespace Sys2Proof.Machine

/-! ### A register write -/

/-- A body and its trigger switch a channel off only where the body does: the written one (R150). -/
theorem localUpdate_off {c j : Chan} {body : State → State × Bool} (hb : RegisterBody c body) {s : State}
    (hs : (s.voice j).on = true) (ht : ((localUpdate c (body s)).voice j).on = false) :
    j = c ∧ ((body s).1.voice c).on = false := by
  by_cases hj : j = c
  · subst hj
    refine ⟨rfl, ?_⟩
    unfold localUpdate at ht
    split at ht
    · rw [triggerLocal_voice] at ht
      cases ht
    · exact ht
  · rw [localUpdate_voice_other hb s hj] at ht
    exact absurd (ht.symm.trans hs) Bool.false_ne_true

/-- What a `WRITE` does to the voices: as its body and its trigger do, or no on flag changes. -/
theorem WriteRule.voices {i : Instr} {r : State → Result} (hr : WriteRule i r) {s t : State} (h : r s = .next t) :
    (∃ c body, RegisterWrite i c body ∧ ∀ j, t.voice j = (localUpdate c (body s)).voice j)
      ∨ ∀ j, (t.voice j).on = (s.voice j).on := by
  cases hr with
  | register hw =>
    refine .inl ⟨_, _, hw, fun j => ?_⟩
    rw [recordSide_voice (channelWrite_next h), channelUpdate_voice]
  | mastervol d =>
    refine .inr fun j => ?_
    rw [recordSide_voice (send_recordSide h), mastervolUpdate, commit_voice]
    rfl
  | routing d =>
    refine .inr fun j => ?_
    rw [recordSide_voice (send_recordSide h), ledger_voice (routingUpdate_ledger d s), routed_voice]
  | wave | nothing =>
    cases h
    exact .inr fun _ => rfl

theorem WriteRule.io {i : Instr} {r : State → Result} (hr : WriteRule i r) {s t : State} (h : r s = .next t) :
    t.io = s.io := by
  cases hr with
  | register hw =>
    exact (recordSide_io (channelWrite_next h)).trans (restSide_io (channelUpdate_rest hw.registerBody _ s))
  | mastervol d => exact (recordSide_io (send_recordSide h)).trans (commit_io { s with masterVolume := d } _ _)
  | routing d => exact (recordSide_io (send_recordSide h)).trans (ledger_io (routingUpdate_ledger d s) :)
  | wave | nothing =>
    cases h
    rfl

theorem WriteRule.goesOn {i : Instr} {r : State → Result} (hr : WriteRule i r) {s t : State} (h : r s = .next t)
    {j : Chan} (hs : (s.voice j).on = false) (ht : (t.voice j).on = true) :
    channelRegister i = some j ∧ admitsTrigger i s = true := by
  rcases hr.voices h with ⟨c, body, hw, hv⟩ | hv
  · rw [hv] at ht
    rcases localUpdate_on hw.registerBody ht with ⟨rfl, htrig⟩ | hon
    · exact ⟨hw.channelRegister, hw.trigger s ▸ htrig⟩
    · exact absurd (hs.symm.trans hon) Bool.false_ne_true
  · exact absurd (hs.symm.trans ((hv j).symm.trans ht)) Bool.false_ne_true

theorem WriteRule.goesOff {i : Instr} {r : State → Result} (hr : WriteRule i r) {s t : State} (h : r s = .next t)
    {j : Chan} (hs : (s.voice j).on = true) (ht : (t.voice j).on = false) :
    j = .c2 ∧ ∃ d : Byte, i = .writeDacen3 d ∧ d.getLsbD 7 = false := by
  rcases hr.voices h with ⟨c, body, hw, hv⟩ | hv
  · rw [hv] at ht
    obtain ⟨rfl, hoff⟩ := localUpdate_off hw.registerBody hs ht
    exact hw.off hs hoff
  · exact absurd (ht.symm.trans ((hv j).trans hs)) Bool.false_ne_true

/-! ### The bytes a resync dispatches (R181, R182) -/

/-- A byte is its two digits. -/
theorem byte_digits {a : Byte} {hi lo : BitVec 4} (hhi : a.extractLsb' 4 4 = hi) (hlo : a.extractLsb' 0 4 = lo) :
    a = hi ++ lo := by
  rw [← hhi, ← hlo]
  have hjoin : a.extractLsb' 4 4 ++ a.extractLsb' 0 4 = a.extractLsb' 0 8 :=
    BitVec.extractLsb'_append_extractLsb'_eq_extractLsb' (start₁ := 0) (len₁ := 4) rfl
  exact (hjoin.trans BitVec.extractLsb'_eq_self).symm

/-- Only address 0x1A has the DAC register, whose instruction has the written byte (R93). -/
theorem dispatched_dacen3 {a d d' : Byte} (h : dispatched a d = .writeDacen3 d') : a = 0x1A#8 ∧ d' = d := by
  unfold dispatched decodeWrite at h
  split at h
  case h_2 hhi =>
    unfold decodeWrite1 at h
    split at h
    case h_11 hlo =>
      cases h
      exact ⟨byte_digits hhi hlo, rfl⟩
    all_goals cases h
  case h_3 =>
    unfold decodeWrite2 at h
    split at h <;> cases h
  all_goals cases h

/-- Only a write of a trigger register with data bit 7 can be a trigger (R108, R125, R129). -/
theorem dispatched_trigger {a d : Byte} {s : State} (h : admitsTrigger (dispatched a d) s = true) :
    isTrigReg a = true ∧ d.getLsbD 7 = true := by
  unfold dispatched decodeWrite at h
  split at h
  case h_2 hhi =>
    unfold decodeWrite1 at h
    split at h
    case h_5 hlo => exact ⟨byte_digits hhi hlo ▸ rfl, h⟩
    case h_10 hlo => exact ⟨byte_digits hhi hlo ▸ rfl, h⟩
    case h_15 hlo => exact ⟨byte_digits hhi hlo ▸ rfl, (Bool.and_eq_true_iff.mp h).1⟩
    all_goals cases h
  case h_3 hhi =>
    unfold decodeWrite2 at h
    split at h
    case h_4 hlo => exact ⟨byte_digits hhi hlo ▸ rfl, h⟩
    all_goals cases h
  all_goals cases h

/-- The bulk pass triggers nothing: it dispatches a trigger register's byte without bit 7 (R181). -/
theorem bulk_never_triggers (a : Byte) (s u : State) : admitsTrigger (dispatched a (bulkByte a s)) u = false := by
  refine Bool.eq_false_iff.mpr fun h => ?_
  obtain ⟨hreg, hbit⟩ := dispatched_trigger h
  rw [bulkByte, if_pos hreg, withoutTrigger, BitVec.getLsbD_and] at hbit
  exact absurd (Bool.and_eq_true_iff.mp hbit).2 (by decide)

theorem dispatched_trigReg (i : Chan) (d : Byte) : channelRegister (dispatched (trigReg i) d) = some i := by
  cases i <;> rfl

theorem trigReg_ne_dacen3 (i : Chan) : trigReg i ≠ 0x1A#8 := by cases i <;> decide

/-! ### A resync -/

/-- What a resync that started in `s` has done to the on flags so far: no channel went on, and only channel 2 went off,
by a stored DAC bit of 0 (R164, R185). -/
def FlagsFrom (s u : State) : Prop :=
  u.io = s.io ∧ (∀ c, (u.voice c).on = true → (s.voice c).on = true)
    ∧ ∀ c, (s.voice c).on = true → (u.voice c).on = false → c = .c2 ∧ (s.ioByte 0x1A#8).getLsbD 7 = false

theorem FlagsFrom.of_same {s u : State} (hio : u.io = s.io) (hv : ∀ c, (u.voice c).on = (s.voice c).on) :
    FlagsFrom s u :=
  ⟨hio, fun c hu => (hv c).symm.trans hu,
    fun c hs hu => absurd (hu.symm.trans ((hv c).trans hs)) Bool.false_ne_true⟩

theorem FlagsFrom.of_recordSide {s u v : State} (h : recordSide v = recordSide u) (hu : FlagsFrom s u) :
    FlagsFrom s v := by
  unfold FlagsFrom
  simp only [recordSide_io h, recordSide_voice h]
  exact hu

/-- A dispatch keeps this, when it triggers only a channel that was on, and a DAC-off write carries the stored byte. -/
theorem FlagsFrom.dispatch {s u v : State} {a d : Byte} (hu : FlagsFrom s u) (h : dispatch a d u = .next v)
    (htrig : ∀ c, channelRegister (dispatched a d) = some c → admitsTrigger (dispatched a d) u = true →
      (s.voice c).on = true)
    (hdac : a = 0x1A#8 → d = u.ioByte 0x1A#8) : FlagsFrom s v := by
  obtain ⟨hio, hon, hoff⟩ := hu
  obtain ⟨r, hr, hrun⟩ := dispatch_rule h
  have hio' : v.io = u.io := hr.io hrun
  refine ⟨hio'.trans hio, fun c hv => ?_, fun c hs hv => ?_⟩
  · cases huc : (u.voice c).on with
    | true => exact hon c huc
    | false =>
      obtain ⟨hreg, hadm⟩ := hr.goesOn hrun huc hv
      exact htrig c hreg hadm
  · cases huc : (u.voice c).on with
    | false => exact hoff c hs huc
    | true =>
      obtain ⟨hc, d', hd', hbit⟩ := hr.goesOff hrun huc hv
      obtain ⟨ha, rfl⟩ := dispatched_dacen3 hd'
      rw [hdac ha, State.ioByte, hio] at hbit
      exact ⟨hc, hbit⟩

/-- The tasks of a resync keep this, the `Unmute` word of UNMUTE included (R290). -/
theorem FlagsFrom.runTask {s u v : State} {k : Task} (hu : FlagsFrom s u)
    (hk : (∃ a, k = .bulk a) ∨ (∃ i, k = .retrigger i (s.voice i).on) ∨ k = .unmuteWord)
    (h : runTask k u = .next v) : FlagsFrom s v := by
  rcases hk with ⟨a, rfl⟩ | ⟨i, rfl⟩ | rfl
  · refine hu.dispatch h (fun c _ hadm => ?_) (fun ha => ?_)
    · rw [bulk_never_triggers] at hadm
      cases hadm
    · rw [ha]
      rfl
  · simp only [Machine.runTask] at h
    split at h
    · next hprev =>
      refine hu.dispatch h (fun c hreg _ => ?_) (fun ha => absurd ha (trigReg_ne_dacen3 i))
      rw [dispatched_trigReg] at hreg
      cases hreg
      exact (Bool.and_eq_true_iff.mp hprev).2
    · cases h
      exact hu
  · simp only [Machine.runTask] at h
    split at h
    · exact hu.of_recordSide (enqueue_recordSide h)
    · cases h
      exact hu

/-- A whole resync from a state with the records and the host storage of `s`. -/
theorem flagsFrom_resync {after : List Task} (hafter : ∀ k ∈ after, k = .unmuteWord) {s u t : State}
    (h : resync after u = .next t) (hio : u.io = s.io) (hv : ∀ c, (u.voice c).on = (s.voice c).on) :
    FlagsFrom s t := by
  refine runTasks_closed (R := fun a b => FlagsFrom s a → FlagsFrom s b) (fun _ => id) (fun h h' => h' ∘ h)
    (fun _ _ => id) (fun k hk {a b} hrun ha => ha.runTask ?_ hrun) h ?_
  · rcases mem_resyncTasks hk with hbulk | ⟨i, rfl⟩ | hk
    · exact .inl hbulk
    · exact .inr (.inl ⟨i, by rw [hv]⟩)
    · exact .inr (.inr (hafter k hk))
  · exact FlagsFrom.of_same ((commit_io u _ _).trans hio) fun c => by rw [commit_voice]; exact hv c

theorem flagsFrom_refresh {after : List Task} (hafter : ∀ k ∈ after, k = .unmuteWord) {s u t : State}
    (h : refresh after u = .next t) (hio : u.io = s.io) (hv : ∀ c, (u.voice c).on = (s.voice c).on) :
    FlagsFrom s t := by
  refine flagsFrom_resync hafter h ?_ fun c => ?_
  · simpa [refreshUpdate] using hio
  · simp only [refreshUpdate, commit_voice]
    exact hv c

/-! ### Every operation -/

/-- The passes of ADVANCE switch channels off only (R204, R208). -/
theorem sliceClosed_on : SliceClosed fun s t => ∀ j, (t.voice j).on = true → (s.voice j).on = true where
  refl _ _ h := h
  trans h1 h2 j h := h1 j (h2 j h)
  minimum _ _ _ h := h
  length i n s j h := by
    rw [setVoice_voice] at h
    split at h
    · next hj => exact hj ▸ h
    · exact h
  envelope w n s _ j h := by rwa [setEnv_voice] at h
  volume i v s j h := by rwa [commit_voice] at h
  elapsed e s j h := by rwa [sweepElapse_voice] at h
  swept p j h := by
    rcases sweepStep_cases p with ⟨_, he⟩ | ⟨_, he⟩
    · rw [he, switchOff_voice] at h
      split at h
      · cases h
      · rwa [sweepStored_voice] at h
    · rwa [he, commit_voice, sweepStored_voice] at h
  off i p j h := by
    rw [switchOff_voice] at h
    split at h
    · cases h
    · exact h

theorem advance_on {e : BitVec 28} {s t : State} (h : advance e s = .next t) {j : Chan} (ht : (t.voice j).on = true) :
    (s.voice j).on = true := by
  have hpasses := sliceClosed_on.advancePasses e.toNat s j
  unfold Machine.advance at h
  split at h
  · cases h
  dsimp only at h
  split at h
  · exact hpasses (recordSide_voice (send_recordSide h) j ▸ ht)
  · cases h
    exact hpasses ht

/-- What the statement says of channel `c` over the operation `i`. -/
def FlagChange (i : Instr) (s t : State) (c : Chan) : Prop :=
  ((s.voice c).on = false → (t.voice c).on = true → channelRegister i = some c ∧ admitsTrigger i s = true)
    ∧ ((s.voice c).on = true → (t.voice c).on = false →
      (∃ e, i = .advance e) ∨ i = .init
        ∨ (c = .c2 ∧ ((∃ d : Byte, i = .writeDacen3 d ∧ d.getLsbD 7 = false)
            ∨ ((s.ioByte 0x1A#8).getLsbD 7 = false
                ∧ (i = .refresh ∨ i = .unmute ∨ i = .setenabled true ∨ ∃ d, i = .writeMasteren d)))))

section FlagChange

variable {i : Instr} {s t : State} {c : Chan}

theorem FlagChange.of_same (hv : (t.voice c).on = (s.voice c).on) : FlagChange i s t c :=
  ⟨fun hs ht => absurd (hs.symm.trans (hv.symm.trans ht)) Bool.false_ne_true,
    fun hs ht => absurd (ht.symm.trans (hv.trans hs)) Bool.false_ne_true⟩

theorem FlagChange.of_resync (hi : i = .refresh ∨ i = .unmute ∨ i = .setenabled true ∨ ∃ d, i = .writeMasteren d)
    (h : FlagsFrom s t) : FlagChange i s t c := by
  obtain ⟨_, hon, hoff⟩ := h
  refine ⟨fun hs ht => absurd (hs.symm.trans (hon c ht)) Bool.false_ne_true, fun hs ht => ?_⟩
  obtain ⟨hc, hbit⟩ := hoff c hs ht
  exact .inr (.inr ⟨hc, .inr ⟨hbit, hi⟩⟩)

end FlagChange

theorem OperationRule.flagChange {i : Instr} {r : State → Result} (hr : OperationRule i r) {s t : State}
    (h : r s = .next t) (c : Chan) : FlagChange i s t c := by
  cases hr with
  | write hw =>
    refine ⟨hw.goesOn h, fun hs ht => ?_⟩
    obtain ⟨hc, hd⟩ := hw.goesOff h hs ht
    exact .inr (.inr ⟨hc, .inl hd⟩)
  | masteren d =>
    unfold writeMasteren at h
    split at h
    · refine .of_same ?_
      rw [recordSide_voice (send_recordSide h), disableUpdate, commit_voice]
      rfl
    split at h
    · exact .of_resync (.inr (.inr (.inr ⟨d, rfl⟩))) (flagsFrom_resync (after := []) nofun h rfl fun _ => rfl)
    · cases h
      exact .of_same rfl
  | advance e =>
    exact ⟨fun hs ht => absurd (hs.symm.trans (advance_on h ht)) Bool.false_ne_true, fun _ _ => .inl ⟨e, rfl⟩⟩
  | getnext =>
    cases h
    exact .of_same rfl
  | vblank =>
    cases h
    exact .of_same (congrArg Voice.on (commit_voice _ _ _ c))
  | refresh => exact .of_resync (.inl rfl) (flagsFrom_refresh (after := []) nofun h rfl fun _ => rfl)
  | mute =>
    refine .of_same ?_
    unfold muteRule at h
    split at h
    · cases h
      rfl
    · obtain ⟨u, hsent, h⟩ := andThen_eq_next.mp h
      cases h
      split at hsent
      · exact congrArg Voice.on (recordSide_voice (enqueue_recordSide hsent) c)
      · cases hsent
        rfl
  | unmute =>
    unfold unmuteRule at h
    split at h
    · exact .of_resync (.inr (.inl rfl))
        (flagsFrom_refresh (fun _ hk => List.mem_singleton.mp hk) h rfl fun _ => rfl)
    · cases h
      exact .of_same rfl
  | setenabled b =>
    unfold setEnabled at h
    split at h
    · next hc =>
      obtain ⟨_, rfl⟩ := hc
      exact .of_resync (.inr (.inr (.inl rfl))) (flagsFrom_refresh (after := []) nofun h rfl fun _ => rfl)
    · cases h
      exact .of_same rfl
  | setsync b =>
    cases h
    exact .of_same (congrArg Voice.on (commit_voice _ _ _ c))

/-- After an `INIT` every channel is off (R331). -/
theorem execInit_off {s t : State} (h : execInit s = .next t) (c : Chan) : (t.voice c).on = false := by
  unfold execInit at h
  repeat' split at h
  all_goals cases h
  cases c <;> rfl

/-- Settles O60: of the rules only a register's own trigger switches a channel on; off it goes in ADVANCE's passes, by
the DAC register's body, written or replayed by a resync, and in `INIT`. -/
theorem onFlagsChangeOnlyByTheseRules : Obligations.OnFlagsChangeOnlyByTheseRules := by
  intro i s t c hi h
  by_cases hinit : i = .init
  · subst hinit
    have hoff := execInit_off h c
    exact ⟨fun _ ht => absurd (hoff.symm.trans ht) Bool.false_ne_true, fun _ _ => .inr (.inl rfl)⟩
  · obtain ⟨r, hr, _, hrun⟩ := exec_operation hi hinit h
    exact hr.flagChange hrun c

end Sys2Proof.Machine
end

section
/-! The byte layout of the blocks and of the Sample Buffer (R61, R64, R65): a byte of memory at a base plus an offset is
that byte of the range, and a byte of a field's range is that byte of the field's value. -/

namespace Sys2Proof.Machine

/-! ### A byte of memory by its range (R65) -/

section MemByte

variable {s : State} (h : RangesApart s.cfg)
include h

theorem memByte_rsb {k : Nat} (hk : k < blockSize) : s.memByte (s.cfg.rsbAddr.toNat + k) = s.rsb.byteAt k := by
  simp only [← toNat_base_add h.rsbEnd hk, State.memByte, locate_rsb_byte h hk]

theorem memByte_dsb {k : Nat} (hk : k < blockSize) : s.memByte (s.cfg.dsbAddr.toNat + k) = s.dsb.byteAt k := by
  simp only [← toNat_base_add h.dsbEnd hk, State.memByte, locate_dsb_byte h hk]

theorem memByte_sampleBuf {k : Nat} (hk : k < sampleBufSize) :
    s.memByte (s.cfg.sampleBufAddr.toNat + k) = some (s.sampleBuf.read k) := by
  simp only [← toNat_base_add h.bufEnd hk, State.memByte, locate_buf_byte h hk]

end MemByte

/-! ### A byte of a field (R61, R64) -/

/-- No field reaches over the end of its block. -/
theorem field_end_le_blockSize (f : Field) : f.offset + f.size ≤ blockSize := by
  have key : ∀ g ∈ allFields, g.offset + g.size ≤ blockSize := by decide
  exact key f (mem_allFields f)

/-- Byte `k` of a word is its digit `k` to base 256 (R61). -/
theorem byteOfWord_eq_ofNat_div (v : Word) (k : Nat) : byteOfWord v k = BitVec.ofNat 8 (v.toNat / 2 ^ (8 * k)) := by
  rw [byteOfWord, BitVec.extractLsb', Nat.shiftRight_eq_div_pow]

/-- The byte image of a block at byte `k` of a field. -/
theorem SharedBlock.byteAt_field (b : SharedBlock) (f : Field) {k : Nat} (hk : k < f.size) :
    b.byteAt (f.offset + k) = some (BitVec.ofNat 8 ((b.get f).toNat / 2 ^ (8 * k))) := by
  have hcover : fieldCovering (f.offset + k) = some f :=
    fieldCovering_eq f (Nat.le_add_right _ _) (Nat.add_lt_add_left hk _)
  rw [SharedBlock.byteAt, hcover, Option.map_some, Nat.add_sub_cancel_left, byteOfWord_eq_ofNat_div]

/-- Settles O58: the table is the list of fields evaluated; a byte of memory is located in its range, and in a block the
field that covers it gives the byte. -/
theorem blocksAreLaidOutAsR64 : Obligations.BlocksAreLaidOutAsR64 := by
  refine ⟨rfl, fun s f k hc hk => ?fields, fun s k hc hk => memByte_sampleBuf (rangesApart_of_admitted hc) hk⟩
  case fields =>
    have hapart := rangesApart_of_admitted hc
    have hin : f.offset + k < blockSize := (Nat.add_lt_add_left hk _).trans_le (field_end_le_blockSize f)
    rw [Nat.add_assoc, Nat.add_assoc, memByte_rsb hapart hin, memByte_dsb hapart hin]
    exact ⟨s.rsb.byteAt_field f hk, s.dsb.byteAt_field f hk⟩

end Sys2Proof.Machine
end

section
/-! The operation words (R90 to R93) and the message words (R110 to R112): their fields as numbers, the two decoders said
once, and the two round trips. -/

namespace Sys2Proof

/-! ### The fields of a word as numbers (R91) -/

theorem opField_toNat (w : Word) : (opField w).toNat = w.toNat / 2 ^ 28 := by
  have hw := w.isLt
  rw [opField, BitVec.extractLsb'_toNat, Nat.shiftRight_eq_div_pow]
  omega

theorem payloadField_toNat (w : Word) : (payloadField w).toNat = w.toNat % 2 ^ 28 := by
  rw [payloadField, BitVec.extractLsb'_toNat, Nat.shiftRight_zero]

theorem highField_toNat (w : Word) : (highField w).toNat = w.toNat / 2 ^ 16 % 2 ^ 12 := by
  rw [highField, BitVec.extractLsb'_toNat, Nat.shiftRight_eq_div_pow]

theorem addrHighField_toNat (w : Word) : (addrHighField w).toNat = w.toNat / 2 ^ 12 % 2 ^ 4 := by
  rw [addrHighField, BitVec.extractLsb'_toNat, Nat.shiftRight_eq_div_pow]

theorem addrLowField_toNat (w : Word) : (addrLowField w).toNat = w.toNat / 2 ^ 8 % 2 ^ 4 := by
  rw [addrLowField, BitVec.extractLsb'_toNat, Nat.shiftRight_eq_div_pow]

theorem dataField_toNat (w : Word) : (dataField w).toNat = w.toNat % 2 ^ 8 := by
  rw [dataField, BitVec.extractLsb'_toNat, Nat.shiftRight_zero]

/-! ### The fields of a written word, and a word from its fields -/

theorem fields_operationWord (op : BitVec 4) (p : BitVec 28) :
    opField (operationWord op.toNat p) = op ∧ payloadField (operationWord op.toNat p) = p := by
  have hw := Laws.operationWord_toNat p op.isLt
  have hp := p.isLt
  constructor <;> apply BitVec.eq_of_toNat_eq
  · rw [opField_toNat, hw]
    omega
  · rw [payloadField_toNat, hw]
    omega

theorem operationWord_fields (w : Word) : operationWord (opField w).toNat (payloadField w) = w := by
  apply BitVec.eq_of_toNat_eq
  rw [Laws.operationWord_toNat _ (opField w).isLt, opField_toNat, payloadField_toNat]
  omega

/-- A `WRITE` has code 0 and bits 27:16 zero. -/
theorem codeFields_writeWord (hi lo : BitVec 4) (d : Byte) :
    opField (writeWord hi.toNat lo.toNat d) = 0x0#4 ∧ highField (writeWord hi.toNat lo.toNat d) = 0#12 := by
  have hw := Laws.writeWord_toNat d hi.isLt lo.isLt
  have hhi := hi.isLt
  have hlo := lo.isLt
  have hd := d.isLt
  constructor <;> apply BitVec.eq_of_toNat_eq
  · rw [opField_toNat, hw, BitVec.toNat_ofNat]
    omega
  · rw [highField_toNat, hw, BitVec.toNat_ofNat]
    omega

theorem operandFields_writeWord (hi lo : BitVec 4) (d : Byte) :
    addrHighField (writeWord hi.toNat lo.toNat d) = hi ∧ addrLowField (writeWord hi.toNat lo.toNat d) = lo
      ∧ dataField (writeWord hi.toNat lo.toNat d) = d := by
  have hw := Laws.writeWord_toNat d hi.isLt lo.isLt
  have hlo := lo.isLt
  have hd := d.isLt
  refine ⟨?_, ?_, ?_⟩ <;> apply BitVec.eq_of_toNat_eq
  · rw [addrHighField_toNat, hw]
    omega
  · rw [addrLowField_toNat, hw]
    omega
  · rw [dataField_toNat, hw]
    omega

theorem writeWord_fields {w : Word} (hop : opField w = 0x0#4) (hhigh : highField w = 0#12) :
    writeWord (addrHighField w).toNat (addrLowField w).toNat (dataField w) = w := by
  have hcode := congrArg BitVec.toNat hop
  have hzero := congrArg BitVec.toNat hhigh
  rw [opField_toNat, BitVec.toNat_ofNat] at hcode
  rw [highField_toNat, BitVec.toNat_ofNat] at hzero
  apply BitVec.eq_of_toNat_eq
  rw [Laws.writeWord_toNat _ (addrHighField w).isLt (addrLowField w).isLt, addrHighField_toNat, addrLowField_toNat,
    dataField_toNat]
  omega

/-! ### `WRITE` (R93, R190, R191) -/

theorem encode_decodeWrite1 (lo : BitVec 4) (d : Byte) : encode (decodeWrite1 lo d) = writeWord 0x1 lo.toNat d := by
  unfold decodeWrite1
  split
  case h_16 =>
    have hlo : lo = 0xF#4 := by revert lo; decide
    rw [hlo]
    rfl
  all_goals rfl

theorem encode_decodeWrite2 (lo : BitVec 4) (d : Byte) : encode (decodeWrite2 lo d) = writeWord 0x2 lo.toNat d := by
  unfold decodeWrite2
  split
  case h_16 =>
    have hlo : lo = 0xF#4 := by revert lo; decide
    rw [hlo]
    rfl
  all_goals rfl

/-- The instruction that a `WRITE` decodes to has the word of its address and data. -/
theorem encode_decodeWrite (hi lo : BitVec 4) (d : Byte) :
    encode (decodeWrite hi lo d) = writeWord hi.toNat lo.toNat d := by
  unfold decodeWrite
  split
  case h_2 => exact encode_decodeWrite1 lo d
  case h_3 => exact encode_decodeWrite2 lo d
  case h_16 =>
    have hhi : hi = 0xF#4 := by revert hi; decide
    rw [hhi]
    rfl
  all_goals rfl

/-- A `WRITE` to any address is an operation, and none is reserved (R191). -/
theorem decodeWrite_operation (hi lo : BitVec 4) (d : Byte) :
    (decodeWrite hi lo d).interface = .operation ∧ Machine.isReservedCode (decodeWrite hi lo d) = false := by
  unfold decodeWrite
  split
  case h_2 => unfold decodeWrite1; split <;> exact ⟨rfl, rfl⟩
  case h_3 => unfold decodeWrite2; split <;> exact ⟨rfl, rfl⟩
  all_goals exact ⟨rfl, rfl⟩

/-! ### The operation decoder (R91, R92) -/

theorem decodeNone_ok {w : Word} {i j : Instr} : decodeNone w j = .ok i ↔ payloadField w = 0#28 ∧ j = i := by
  unfold decodeNone
  split <;> simp [*]

theorem decodeFlag_ok {w : Word} {f : Bool → Instr} {i : Instr} :
    decodeFlag w f = .ok i ↔ ∃ b, payloadField w = flagPayload b ∧ f b = i := by
  unfold decodeFlag
  split
  · simp [*, flagPayload]
  split <;> simp [*, flagPayload]

/-- The rows of R91 and R92 (a) but `WRITE`: the code, bits 27:0, and the instruction that they stand for. -/
inductive CodeRow : BitVec 4 → BitVec 28 → Instr → Prop
  | advance (p : BitVec 28) : CodeRow 0x1#4 p (.advance p)
  | getnext : CodeRow 0x2#4 0#28 .getnext
  | vblank : CodeRow 0x3#4 0#28 .vblank
  | init : CodeRow 0x4#4 0#28 .init
  | refresh : CodeRow 0x5#4 0#28 .refresh
  | mute : CodeRow 0x6#4 0#28 .mute
  | unmute : CodeRow 0x7#4 0#28 .unmute
  | setenabled (b : Bool) : CodeRow 0x8#4 (flagPayload b) (.setenabled b)
  | setsync (b : Bool) : CodeRow 0x9#4 (flagPayload b) (.setsync b)
  | refusedA (p : BitVec 28) : CodeRow 0xA#4 p (.refusedA p)
  | refusedB (p : BitVec 28) : CodeRow 0xB#4 p (.refusedB p)
  | refusedC (p : BitVec 28) : CodeRow 0xC#4 p (.refusedC p)
  | refusedD (p : BitVec 28) : CodeRow 0xD#4 p (.refusedD p)
  | refusedE (p : BitVec 28) : CodeRow 0xE#4 p (.refusedE p)
  | refusedF (p : BitVec 28) : CodeRow 0xF#4 p (.refusedF p)

section

variable {w : Word} {op : BitVec 4} {i : Instr} (hop : opField w = op)
include hop

theorem codeRow_of_decodeNone {j : Instr} (h : decodeNone w j = .ok i) (row : CodeRow op 0#28 j) :
    CodeRow (opField w) (payloadField w) i := by
  obtain ⟨hp, rfl⟩ := decodeNone_ok.mp h
  rwa [hop, hp]

theorem codeRow_of_decodeFlag {f : Bool → Instr} (h : decodeFlag w f = .ok i)
    (row : ∀ b, CodeRow op (flagPayload b) (f b)) : CodeRow (opField w) (payloadField w) i := by
  obtain ⟨b, hp, rfl⟩ := decodeFlag_ok.mp h
  rw [hop, hp]
  exact row b

theorem codeRow_of_payload {f : BitVec 28 → Instr} (h : Except.ok (ε := DecodeError) (f (payloadField w)) = .ok i)
    (row : ∀ p, CodeRow op p (f p)) : CodeRow (opField w) (payloadField w) i := by
  cases h
  rw [hop]
  exact row _

end

/-- A word with the code and the bits 27:0 of a row decodes to the row's instruction. -/
theorem CodeRow.decodes {w : Word} {i : Instr} (h : CodeRow (opField w) (payloadField w) i) :
    decodeOperation w = .ok i := by
  generalize hop : opField w = op at h
  generalize hp : payloadField w = p at h
  unfold decodeOperation
  rw [hop]
  cases h
  case getnext | vblank | init | refresh | mute | unmute => exact decodeNone_ok.mpr ⟨hp, rfl⟩
  case setenabled b | setsync b => exact decodeFlag_ok.mpr ⟨b, hp, rfl⟩
  all_goals exact congrArg _ (congrArg _ hp)

/-- What a word that decodes decodes to: a `WRITE`, or the instruction of a row. -/
theorem decodeOperation_ok {w : Word} {i : Instr} :
    decodeOperation w = .ok i ↔
      (opField w = 0x0#4 ∧ highField w = 0#12
        ∧ decodeWrite (addrHighField w) (addrLowField w) (dataField w) = i)
      ∨ CodeRow (opField w) (payloadField w) i := by
  constructor
  case mp =>
    intro h
    unfold decodeOperation at h
    split at h
    case h_1 hop =>
      split at h
      · next hhigh => exact .inl ⟨hop, hhigh, Except.ok.inj h⟩
      · cases h
    case h_2 hop => exact .inr (codeRow_of_payload hop h .advance)
    case h_3 hop => exact .inr (codeRow_of_decodeNone hop h .getnext)
    case h_4 hop => exact .inr (codeRow_of_decodeNone hop h .vblank)
    case h_5 hop => exact .inr (codeRow_of_decodeNone hop h .init)
    case h_6 hop => exact .inr (codeRow_of_decodeNone hop h .refresh)
    case h_7 hop => exact .inr (codeRow_of_decodeNone hop h .mute)
    case h_8 hop => exact .inr (codeRow_of_decodeNone hop h .unmute)
    case h_9 hop => exact .inr (codeRow_of_decodeFlag hop h .setenabled)
    case h_10 hop => exact .inr (codeRow_of_decodeFlag hop h .setsync)
    case h_11 hop => exact .inr (codeRow_of_payload hop h .refusedA)
    case h_12 hop => exact .inr (codeRow_of_payload hop h .refusedB)
    case h_13 hop => exact .inr (codeRow_of_payload hop h .refusedC)
    case h_14 hop => exact .inr (codeRow_of_payload hop h .refusedD)
    case h_15 hop => exact .inr (codeRow_of_payload hop h .refusedE)
    case h_16 =>
      have hop : opField w = 0xF#4 := by
        generalize opField w = op at *
        revert op
        decide
      exact .inr (codeRow_of_payload hop h .refusedF)
  case mpr =>
    rintro (⟨hop, hhigh, rfl⟩ | row)
    · rw [decodeOperation, hop]
      exact if_pos hhigh
    · exact row.decodes

section

variable {op : BitVec 4} {p : BitVec 28} {i : Instr} (h : CodeRow op p i)
include h

theorem CodeRow.encode : encode i = operationWord op.toNat p := by cases h <;> rfl

theorem CodeRow.interface : i.interface = .operation := by cases h <;> rfl

theorem CodeRow.decode_encode : decodeOperation (Sys2Proof.encode i) = .ok i := by
  obtain ⟨hop, hp⟩ := fields_operationWord op p
  rw [h.encode]
  exact CodeRow.decodes (by rwa [hop, hp])

end

theorem decodeOperation_writeWord (hi lo : BitVec 4) (d : Byte) :
    decodeOperation (writeWord hi.toNat lo.toNat d) = .ok (decodeWrite hi lo d) := by
  obtain ⟨hop, hhigh⟩ := codeFields_writeWord hi lo d
  obtain ⟨hhi, hlo, hd⟩ := operandFields_writeWord hi lo d
  exact decodeOperation_ok.mpr (.inl ⟨hop, hhigh, by rw [hhi, hlo, hd]⟩)

/-- The operation decoder inverts the encoder (R90, R91). -/
theorem decodeOperation_encode {i : Instr} (h : i.interface = .operation) : decodeOperation (encode i) = .ok i := by
  cases i with
  | writeSweep1 d => exact decodeOperation_writeWord 0x1#4 0x0#4 d
  | writeLenduty1 d => exact decodeOperation_writeWord 0x1#4 0x1#4 d
  | writeEnv1 d => exact decodeOperation_writeWord 0x1#4 0x2#4 d
  | writeFreqlo1 d => exact decodeOperation_writeWord 0x1#4 0x3#4 d
  | writeFreqhi1 d => exact decodeOperation_writeWord 0x1#4 0x4#4 d
  | writeUnmapped15 d => exact decodeOperation_writeWord 0x1#4 0x5#4 d
  | writeLenduty2 d => exact decodeOperation_writeWord 0x1#4 0x6#4 d
  | writeEnv2 d => exact decodeOperation_writeWord 0x1#4 0x7#4 d
  | writeFreqlo2 d => exact decodeOperation_writeWord 0x1#4 0x8#4 d
  | writeFreqhi2 d => exact decodeOperation_writeWord 0x1#4 0x9#4 d
  | writeDacen3 d => exact decodeOperation_writeWord 0x1#4 0xA#4 d
  | writeLen3 d => exact decodeOperation_writeWord 0x1#4 0xB#4 d
  | writeLevel3 d => exact decodeOperation_writeWord 0x1#4 0xC#4 d
  | writeFreqlo3 d => exact decodeOperation_writeWord 0x1#4 0xD#4 d
  | writeFreqhi3 d => exact decodeOperation_writeWord 0x1#4 0xE#4 d
  | writeUnmapped1F d => exact decodeOperation_writeWord 0x1#4 0xF#4 d
  | writeLen4 d => exact decodeOperation_writeWord 0x2#4 0x0#4 d
  | writeEnv4 d => exact decodeOperation_writeWord 0x2#4 0x1#4 d
  | writePoly4 d => exact decodeOperation_writeWord 0x2#4 0x2#4 d
  | writeTrig4 d => exact decodeOperation_writeWord 0x2#4 0x3#4 d
  | writeMastervol d => exact decodeOperation_writeWord 0x2#4 0x4#4 d
  | writeRouting d => exact decodeOperation_writeWord 0x2#4 0x5#4 d
  | writeMasteren d => exact decodeOperation_writeWord 0x2#4 0x6#4 d
  | writeUnmapped27 d => exact decodeOperation_writeWord 0x2#4 0x7#4 d
  | writeUnmapped28 d => exact decodeOperation_writeWord 0x2#4 0x8#4 d
  | writeUnmapped29 d => exact decodeOperation_writeWord 0x2#4 0x9#4 d
  | writeUnmapped2A d => exact decodeOperation_writeWord 0x2#4 0xA#4 d
  | writeUnmapped2B d => exact decodeOperation_writeWord 0x2#4 0xB#4 d
  | writeUnmapped2C d => exact decodeOperation_writeWord 0x2#4 0xC#4 d
  | writeUnmapped2D d => exact decodeOperation_writeWord 0x2#4 0xD#4 d
  | writeUnmapped2E d => exact decodeOperation_writeWord 0x2#4 0xE#4 d
  | writeUnmapped2F d => exact decodeOperation_writeWord 0x2#4 0xF#4 d
  | writeWave lo d => exact decodeOperation_writeWord 0x3#4 lo d
  | writeOut0 lo d => exact decodeOperation_writeWord 0x0#4 lo d
  | writeOut4 lo d => exact decodeOperation_writeWord 0x4#4 lo d
  | writeOut5 lo d => exact decodeOperation_writeWord 0x5#4 lo d
  | writeOut6 lo d => exact decodeOperation_writeWord 0x6#4 lo d
  | writeOut7 lo d => exact decodeOperation_writeWord 0x7#4 lo d
  | writeOut8 lo d => exact decodeOperation_writeWord 0x8#4 lo d
  | writeOut9 lo d => exact decodeOperation_writeWord 0x9#4 lo d
  | writeOutA lo d => exact decodeOperation_writeWord 0xA#4 lo d
  | writeOutB lo d => exact decodeOperation_writeWord 0xB#4 lo d
  | writeOutC lo d => exact decodeOperation_writeWord 0xC#4 lo d
  | writeOutD lo d => exact decodeOperation_writeWord 0xD#4 lo d
  | writeOutE lo d => exact decodeOperation_writeWord 0xE#4 lo d
  | writeOutF lo d => exact decodeOperation_writeWord 0xF#4 lo d
  | advance e => exact (CodeRow.advance e).decode_encode
  | getnext => exact CodeRow.getnext.decode_encode
  | vblank => exact CodeRow.vblank.decode_encode
  | init => exact CodeRow.init.decode_encode
  | refresh => exact CodeRow.refresh.decode_encode
  | mute => exact CodeRow.mute.decode_encode
  | unmute => exact CodeRow.unmute.decode_encode
  | setenabled b => exact (CodeRow.setenabled b).decode_encode
  | setsync b => exact (CodeRow.setsync b).decode_encode
  | refusedA p => exact (CodeRow.refusedA p).decode_encode
  | refusedB p => exact (CodeRow.refusedB p).decode_encode
  | refusedC p => exact (CodeRow.refusedC p).decode_encode
  | refusedD p => exact (CodeRow.refusedD p).decode_encode
  | refusedE p => exact (CodeRow.refusedE p).decode_encode
  | refusedF p => exact (CodeRow.refusedF p).decode_encode
  | msgStart _ | msgUpdate _ | msgUpdateAll | msgMasterVolumeAll | msgMuteAll | msgUnmuteAll | msgReserved _ =>
    cases h

/-- The encoder inverts the operation decoder: no bit of a word is dropped (R90). -/
theorem encode_of_decodeOperation {w : Word} {i : Instr} (h : decodeOperation w = .ok i) :
    i.interface = .operation ∧ encode i = w := by
  rcases decodeOperation_ok.mp h with ⟨hop, hhigh, rfl⟩ | row
  · exact ⟨(decodeWrite_operation _ _ _).1, (encode_decodeWrite _ _ _).trans (writeWord_fields hop hhigh)⟩
  · exact ⟨row.interface, row.encode.trans (operationWord_fields w)⟩

theorem wellFormed_of_operation {i : Instr} (h : i.interface = .operation) : WellFormed i := by
  cases i
  case msgReserved => cases h
  all_goals rfl

/-! ### The message decoder (R110 to R112) -/

/-- A form of R111 is read back from its word. -/
theorem messageForm_encode {i : Instr} (h : i.interface = .message) (hform : ∀ w, i ≠ .msgReserved w) :
    messageForm (encode i) = some i := by
  cases i with
  | msgStart c | msgUpdate c => cases c <;> rfl
  | msgUpdateAll | msgMasterVolumeAll | msgMuteAll | msgUnmuteAll => rfl
  | msgReserved w => exact absurd rfl (hform w)
  | _ => cases h

/-- A form of R111 is a message and encodes to the word it was read from. -/
theorem encode_of_messageForm {w : Word} {i : Instr} (h : messageForm w = some i) :
    i.interface = .message ∧ WellFormed i ∧ encode i = w := by
  unfold messageForm at h
  split at h
  case h_13 => cases h
  all_goals
    cases h
    exact ⟨rfl, rfl, rfl⟩

theorem decodeMessage_encode {i : Instr} (h : i.interface = .message) (hwf : WellFormed i) :
    decodeMessage (encode i) = i := by
  by_cases hform : ∀ w, i ≠ .msgReserved w
  · rw [decodeMessage, messageForm_encode h hform]
  · simp only [not_forall, ne_eq, not_not] at hform
    obtain ⟨w, rfl⟩ := hform
    have hnone : messageForm w = none := Option.isNone_iff_eq_none.mp hwf
    rw [encode, decodeMessage, hnone]

/-- Settles O1: each decoder reads back the word of its interface's instructions. -/
theorem decodeInvertsEncode : Obligations.DecodeInvertsEncode := fun _ hwf =>
  ⟨decodeOperation_encode, fun h => decodeMessage_encode h hwf⟩

/-- Settles O2: an operation word is rebuilt from its fields, and a message word is a form of R111 or stands for itself. -/
theorem encodeInvertsDecode : Obligations.EncodeInvertsDecode := by
  refine ⟨fun w i h => ?operation, fun w => ?message⟩
  case operation =>
    obtain ⟨hi, hword⟩ := encode_of_decodeOperation h
    exact ⟨hi, wellFormed_of_operation hi, hword⟩
  case message =>
    unfold decodeMessage
    split
    · next i hform => exact encode_of_messageForm hform
    · next hnone => exact ⟨rfl, Option.isNone_iff_eq_none.mpr hnone, rfl⟩

/-- Settles O4: both decoders evaluate on each word. -/
theorem sampleWordsDecode : Obligations.SampleWordsDecode := by
  unfold Obligations.SampleWordsDecode
  decide

end Sys2Proof
end

section
/-! The fields that must be 0 (R91, R92 (b)), as numbers, and the codes from 0xA on (R92 (a)). -/

namespace Sys2Proof

open Machine (isReservedCode)

/-- A field of the word that R91 marks "must be 0" is not 0. -/
def NonzeroField (w : Word) : Prop :=
  (w.toNat / 2 ^ 28 = 0 ∧ w.toNat / 2 ^ 16 % 2 ^ 12 ≠ 0)
    ∨ (2 ≤ w.toNat / 2 ^ 28 ∧ w.toNat / 2 ^ 28 ≤ 7 ∧ w.toNat % 2 ^ 28 ≠ 0)
    ∨ (8 ≤ w.toNat / 2 ^ 28 ∧ w.toNat / 2 ^ 28 ≤ 9 ∧ 2 ≤ w.toNat % 2 ^ 28)

theorem decodeNone_error {w : Word} {j : Instr} {e : DecodeError} (h : decodeNone w j = .error e) :
    w.toNat % 2 ^ 28 ≠ 0 := by
  unfold decodeNone at h
  split at h
  · cases h
  · next hp =>
    rw [← payloadField_toNat]
    exact fun h0 => hp (BitVec.eq_of_toNat_eq h0)

theorem decodeFlag_error {w : Word} {f : Bool → Instr} {e : DecodeError} (h : decodeFlag w f = .error e) :
    2 ≤ w.toNat % 2 ^ 28 := by
  unfold decodeFlag at h
  split at h
  · cases h
  split at h
  · cases h
  · next hp0 hp1 =>
    have h0 : (payloadField w).toNat ≠ 0 := fun h => hp0 (BitVec.eq_of_toNat_eq h)
    have h1 : (payloadField w).toNat ≠ 1 := fun h => hp1 (BitVec.eq_of_toNat_eq h)
    rw [payloadField_toNat] at h0 h1
    omega

/-- A word that does not decode has a must-be-zero field that is not 0. -/
theorem nonzeroField_of_error {w : Word} {e : DecodeError} (h : decodeOperation w = .error e) : NonzeroField w := by
  have code {op : BitVec 4} (hop : opField w = op) : w.toNat / 2 ^ 28 = op.toNat := by rw [← hop, opField_toNat]
  have bare {op : BitVec 4} {j : Instr} (hop : opField w = op) (h : decodeNone w j = .error e)
      (hrange : 2 ≤ op.toNat ∧ op.toNat ≤ 7) : NonzeroField w := by
    rw [← code hop] at hrange
    exact .inr (.inl ⟨hrange.1, hrange.2, decodeNone_error h⟩)
  have flag {op : BitVec 4} {f : Bool → Instr} (hop : opField w = op) (h : decodeFlag w f = .error e)
      (hrange : 8 ≤ op.toNat ∧ op.toNat ≤ 9) : NonzeroField w := by
    rw [← code hop] at hrange
    exact .inr (.inr ⟨hrange.1, hrange.2, decodeFlag_error h⟩)
  unfold decodeOperation at h
  split at h
  case h_1 hop =>
    split at h
    · cases h
    · next hhigh =>
      refine .inl ⟨code hop, fun h0 => hhigh (BitVec.eq_of_toNat_eq ?_)⟩
      rw [highField_toNat, h0]
      rfl
  case h_3 hop | h_4 hop | h_5 hop | h_6 hop | h_7 hop | h_8 hop => exact bare hop h (by decide)
  case h_9 hop | h_10 hop => exact flag hop h (by decide)
  all_goals cases h

/-- The must-be-zero bits of a row: none of code 1, bits 27:0 of codes 2 to 7, bits 27:1 of codes 8 and 9. -/
theorem CodeRow.payload {op : BitVec 4} {p : BitVec 28} {i : Instr} (h : CodeRow op p i) :
    1 ≤ op.toNat ∧ (2 ≤ op.toNat → op.toNat ≤ 7 → p.toNat = 0) ∧ (8 ≤ op.toNat → op.toNat ≤ 9 → p.toNat < 2) := by
  cases h
  case setenabled b | setsync b => cases b <;> decide
  all_goals simp

theorem CodeRow.reserved_iff {op : BitVec 4} {p : BitVec 28} {i : Instr} (h : CodeRow op p i) :
    isReservedCode i = true ↔ 0xA ≤ op.toNat := by
  cases h <;> simp [isReservedCode]

/-- A word that decodes has its must-be-zero fields 0, and is a reserved code from code 0xA on. -/
theorem decodeOperation_ok_numbers {w : Word} {i : Instr} (h : decodeOperation w = .ok i) :
    ¬NonzeroField w ∧ (isReservedCode i = true ↔ 0xA ≤ w.toNat / 2 ^ 28) := by
  unfold NonzeroField
  rcases decodeOperation_ok.mp h with ⟨hop, hhigh, rfl⟩ | row
  · have hcode : w.toNat / 2 ^ 28 = 0 := by rw [← opField_toNat, hop]; rfl
    have hzero : w.toNat / 2 ^ 16 % 2 ^ 12 = 0 := by rw [← highField_toNat, hhigh]; rfl
    rw [(decodeWrite_operation _ _ _).2]
    constructor
    · omega
    · exact iff_of_false Bool.false_ne_true (by omega)
  · obtain ⟨hcode, hbare, hflag⟩ := row.payload
    have hreserved := row.reserved_iff
    rw [opField_toNat] at hcode hbare hflag hreserved
    rw [payloadField_toNat] at hbare hflag
    exact ⟨by omega, hreserved⟩

end Sys2Proof
end

section
/-! The message words and the reserved codes at run time (R92 (a), R112, R262). -/

namespace Sys2Proof.Machine

/-- The meaning of a form of R111 is the counting of its word. -/
theorem exec_message {i : Instr} (h : i.interface = .message) (hform : ∀ w, i ≠ .msgReserved w) (s : State) :
    exec i s = receiveMessage (encode i) s := by
  cases i with
  | msgStart _ | msgUpdate _ | msgUpdateAll | msgMasterVolumeAll | msgMuteAll | msgUnmuteAll => rfl
  | msgReserved w => exact absurd rfl (hform w)
  | _ => cases h

/-- A word that the started consumer has removed is counted. -/
theorem receiveMessage_dequeued {w : Word} {s : State} (hs : s.started = true)
    (hd : s.consumer.dequeued = some w) : receiveMessage w s = .next (countMessage s) := by
  rw [receiveMessage, if_neg (by simp [hs]), if_pos hd]

/-- The second step of Dequeue counts a form of R111. -/
theorem consumerFinishDequeue_form {w : Word} {i : Instr} {s : State} (hd : s.consumer.dequeued = some w)
    (hform : messageForm w = some i) : consumerFinishDequeue s = .next (countMessage s) := by
  simp only [consumerFinishDequeue, hd, hform]

/-- The second step of Dequeue meets a word that is no form of R111 (R112). -/
theorem consumerFinishDequeue_reserved {w : Word} {s : State} (hd : s.consumer.dequeued = some w)
    (hform : messageForm w = none) : consumerFinishDequeue s = .fault (.reservedMessage w) := by
  simp only [consumerFinishDequeue, hd, hform]

theorem exec_reservedCode {i : Instr} (h : isReservedCode i = true) (s : State) :
    exec i s = .refused .reservedOperation := by
  cases i with
  | refusedA _ | refusedB _ | refusedC _ | refusedD _ | refusedE _ | refusedF _ => rfl
  | _ => cases h

/-- Settles O15: the message row and C's second step of Dequeue both count the word, which is a form of R111. -/
theorem messagesAreCounted : Obligations.MessagesAreCounted := by
  intro i s hi hform hs hd
  have hexec : exec i s = .next (countMessage s) := by
    rw [exec_message hi hform, receiveMessage_dequeued hs hd]
  exact ⟨hexec, (consumerFinishDequeue_form hd (messageForm_encode hi hform)).trans hexec.symm⟩

/-- Settles O16: the six reserved codes, the reserved message word, and C's counting of one. -/
theorem reservedEncodingsStop : Obligations.ReservedEncodingsStop :=
  ⟨fun _ s hi => exec_reservedCode hi s, fun _ _ => rfl, fun _ _ hform hd => consumerFinishDequeue_reserved hd hform⟩

end Sys2Proof.Machine
end

section
/-! Where an operation completes (R91, R300) while the consumer makes no move. -/

namespace Sys2Proof.Machine

/-- The operation ends with a next state. -/
def Completes (r : Result) : Prop := ∃ t, r = .next t

/-! ### Sends and channel writes -/

theorem send_completes (k : MsgKind) (c : MsgChan) {s : State} (hs : s.Silent) : Completes (send k c s) := by
  obtain ⟨t, h, _⟩ := send_silent k c hs
  exact ⟨t, h⟩

theorem enqueue_completes (w : Word) {s : State} (hs : s.Silent) : Completes (enqueue w s) :=
  ⟨_, enqueue_silent w hs⟩

theorem commit_silent (f : Field) (v : Word) {s : State} (hs : s.Silent) : (commit f v s).Silent :=
  (commit_turns s f v).trans hs

theorem WriteRule.completes {i : Instr} {r : State → Result} (hr : WriteRule i r) {s : State} (hs : s.Silent) :
    Completes (r s) := by
  cases hr with
  | register h =>
    obtain ⟨t, ht, _⟩ := channelWrite_silent h.registerBody hs
    exact ⟨t, ht⟩
  | mastervol d => exact send_completes _ _ (commit_silent _ _ hs)
  | routing d =>
    have pan {u : State} (hu : u.Silent) (c : Chan) : (routePan d c u).Silent :=
      commit_silent _ _ ((setVoice_turns u c _).trans hu)
    have hpans := pan (pan (pan (pan (u := { s with routing := d }) hs .c0) .c1) .c2) .c3
    exact send_completes _ _ (commit_silent _ _ hpans)
  | wave j d => exact ⟨_, rfl⟩
  | nothing => exact ⟨_, rfl⟩

/-! ### A resync (R180) -/

/-- What a dispatch runs is the rule of a `WRITE` (R120, R180). -/
theorem dispatch_eq_rule (a d : Byte) (s : State) : ∃ r, WriteRule (dispatched a d) r ∧ dispatch a d s = r s := by
  unfold dispatch dispatched
  generalize decodeWrite (a.extractLsb' 4 4) (a.extractLsb' 0 4) d = i
  split
  case h_19 => exact ⟨_, .mastervol _, rfl⟩
  case h_20 => exact ⟨_, .routing _, rfl⟩
  case h_21 => exact ⟨_, .wave _ _, rfl⟩
  case h_22 => exact ⟨_, .nothing _, rfl⟩
  all_goals exact ⟨_, .register (by constructor), rfl⟩

theorem dispatch_completes (a d : Byte) {s : State} (hs : s.Silent) : Completes (dispatch a d s) := by
  obtain ⟨r, hr, h⟩ := dispatch_eq_rule a d s
  rw [h]
  exact hr.completes hs

/-- What a task runs: a dispatch, the direct admission of a word, or nothing (R181, R182, R290). -/
theorem runTask_eq (k : Task) (s : State) :
    (∃ a d, runTask k s = dispatch a d s) ∨ (∃ w, runTask k s = enqueue w s) ∨ runTask k s = .next s := by
  cases k with
  | bulk a => exact .inl ⟨_, _, rfl⟩
  | retrigger i prev =>
    rw [runTask]
    split
    · exact .inl ⟨_, _, rfl⟩
    · exact .inr (.inr rfl)
  | unmuteWord =>
    rw [runTask]
    split
    · exact .inr (.inl ⟨_, rfl⟩)
    · exact .inr (.inr rfl)

/-- A task completes, and lists the consumer no move. -/
theorem runTask_silent (k : Task) {s : State} (hs : s.Silent) : ∃ t, runTask k s = .next t ∧ t.Silent := by
  rcases runTask_eq k s with ⟨a, d, h⟩ | ⟨w, h⟩ | h <;> rw [h]
  · obtain ⟨t, ht⟩ := dispatch_completes a d hs
    exact ⟨t, ht, (operationClosed_keepsConsumer.dispatch ht hs).1⟩
  · obtain ⟨t, ht⟩ := enqueue_completes w hs
    exact ⟨t, ht, (KeepsConsumer.enqueue ht hs).1⟩
  · exact ⟨s, rfl, hs⟩

/-- Tasks complete, or the rest of them is put off by a hold (R253). -/
theorem runTasks_completes (ks : List Task) {s : State} (hs : s.Silent) : Completes (runTasks ks s) := by
  induction ks generalizing s with
  | nil => exact ⟨s, rfl⟩
  | cons k ks ih =>
    obtain ⟨t, ht, hsilent⟩ := runTask_silent k hs
    rw [runTasks, ht, andThen_next]
    split
    · exact ⟨_, rfl⟩
    · exact ih hsilent

theorem resync_completes (after : List Task) {s : State} (hs : s.Silent) : Completes (resync after s) :=
  runTasks_completes _ (commit_silent _ _ hs)

theorem refresh_completes (after : List Task) {s : State} (hs : s.Silent) : Completes (refresh after s) :=
  resync_completes after <| commit_silent _ _ <|
    commit_silent _ _ (s := { s with masterEnable := masterOf (s.ioByte 0x26#8) }) hs

/-! ### The sweep of ADVANCE (R200, R203, R204) -/

/-- A rising sweep that moves the frequency at all raises it by at least 1 at every step. -/
theorem le_sweptAfter {s : State} (hup : s.ch0.sweep.down = false)
    (hmoves : 0 < s.ch0.freq.toNat >>> s.ch0.sweep.shift.toNat) (n : Nat) : n ≤ sweptAfter s n := by
  induction n with
  | zero => exact Nat.zero_le _
  | succ n ih =>
    have hfreq : s.ch0.freq.toNat ≤ sweptAfter s n := (sweptAfter_mono s (Nat.zero_le n)).2 hup
    have hstep : 0 < sweptAfter s n >>> s.ch0.sweep.shift.toNat :=
      hmoves.trans_le (by simpa only [Nat.shiftRight_eq_div_pow] using Nat.div_le_div_right hfreq)
    rw [sweptAfter_succ, if_neg (by simp [hup])]
    omega

/-- A sweep pass has ended when it leaves channel 0 off, without a sweep, or with its counter above 0. -/
theorem sweepEndless_of_pass {e : BitVec 28} {s : State} {p : Slice}
    (hp : sweepPass e.toNat ⟨{ s with nextEvent := noEvent }, false⟩ = p)
    (hend : p.state.ch0.voice.on = false ∨ p.state.ch0.sweep.time = 0#3 ∨ 0 < p.state.ch0.sweep.counter) :
    sweepEndless e.toNat s = false := by
  unfold sweepEndless
  rw [hp]
  rcases hend with hoff | htime | hcounter
  · simp [hoff]
  · simp [htime]
  · simp [Int.not_le.mpr hcounter]

/-- The sweep of a slice ends where `SweepHalts` says so (R215, log entry 11). -/
theorem sweepEndless_of_halts {s : State} {e : BitVec 28} (h : s.SweepHalts e) : sweepEndless e.toNat s = false := by
  by_cases hrest : s.ch0.voice.on = false ∨ s.ch0.sweep.time = 0#3
  · exact sweepEndless_of_pass (sweepPass_off e.toNat ⟨{ s with nextEvent := noEvent }, false⟩ hrest)
      (hrest.imp_right .inl)
  rw [not_or, Bool.not_eq_false] at hrest
  obtain ⟨hon, htime⟩ := hrest
  cases sweep_outcome { s with nextEvent := noEvent } (s.ch0.sweep.counter - e.toNat)
    (sweepPeriod_nonneg s.cfg s.ch0.sweep.time) with
  | inRange n hf hr =>
    refine sweepEndless_of_pass
      (sweepPass_inRange (p := ⟨{ s with nextEvent := noEvent }, false⟩) hon htime hf hr) (.inr (.inr ?_))
    rw [reportNext_ch0, sweptSlice_ch0]
    exact hf.1
  | overflow n hc hr ho =>
    refine sweepEndless_of_pass
      (sweepPass_overflow (p := ⟨{ s with nextEvent := noEvent }, false⟩) hon htime hc hr ho) (.inl ?_)
    change (State.voice _ .c0).on = false
    rw [switchOff_voice, if_pos rfl]
  | endless hP hc hr =>
    exfalso
    rcases h with (htime' | hperiod) | hoff | hcounter | ⟨hup, hmoves⟩
    · exact htime htime'
    · unfold sweepPeriod at hP
      omega
    · exact absurd (hoff.symm.trans hon) Bool.false_ne_true
    · omega
    · have hhigh := le_sweptAfter (s := { s with nextEvent := noEvent }) hup hmoves 0x800
      have hlow := hr 0x800 (by decide)
      omega

theorem advance_completes {e : BitVec 28} {s : State} (hs : s.Silent) (hends : sweepEndless e.toNat s = false) :
    Completes (advance e s) := by
  have hpasses : (advancePasses e.toNat s).state.Silent := restSide_silent (advancePasses_rest e.toNat s) hs
  rw [advance, if_neg (by simp [hends])]
  dsimp only
  split
  · exact send_completes _ _ hpasses
  · exact ⟨_, rfl⟩

/-! ### Every operation -/

/-- An operation other than `INIT` is its rule behind the guard (R309). -/
theorem exec_eq_issue {i : Instr} (hi : i.interface = .operation) (hinit : i ≠ .init)
    (hcode : isReservedCode i = false) : ∃ r, OperationRule i r ∧ ∀ s, exec i s = issue s r := by
  cases i with
  | writeSweep1 _ | writeLenduty1 _ | writeEnv1 _ | writeFreqlo1 _ | writeFreqhi1 _ | writeLenduty2 _ | writeEnv2 _
  | writeFreqlo2 _ | writeFreqhi2 _ | writeDacen3 _ | writeLen3 _ | writeLevel3 _ | writeFreqlo3 _ | writeFreqhi3 _
  | writeLen4 _ | writeEnv4 _ | writePoly4 _ | writeTrig4 _ =>
    exact ⟨_, .write (.register (by constructor)), fun _ => rfl⟩
  | writeMastervol d => exact ⟨_, .write (.mastervol d), fun _ => rfl⟩
  | writeRouting d => exact ⟨_, .write (.routing d), fun _ => rfl⟩
  | writeWave j d => exact ⟨_, .write (.wave j d), fun _ => rfl⟩
  | writeUnmapped15 _ | writeUnmapped1F _ | writeUnmapped27 _ | writeUnmapped28 _ | writeUnmapped29 _
  | writeUnmapped2A _ | writeUnmapped2B _ | writeUnmapped2C _ | writeUnmapped2D _ | writeUnmapped2E _
  | writeUnmapped2F _ | writeOut0 _ _ | writeOut4 _ _ | writeOut5 _ _ | writeOut6 _ _ | writeOut7 _ _
  | writeOut8 _ _ | writeOut9 _ _ | writeOutA _ _ | writeOutB _ _ | writeOutC _ _ | writeOutD _ _ | writeOutE _ _
  | writeOutF _ _ => exact ⟨_, .write (.nothing _), fun _ => rfl⟩
  | writeMasteren d => exact ⟨_, .masteren d, fun _ => rfl⟩
  | advance e => exact ⟨_, .advance e, fun _ => rfl⟩
  | getnext => exact ⟨_, .getnext, fun _ => rfl⟩
  | vblank => exact ⟨_, .vblank, fun _ => rfl⟩
  | init => exact absurd rfl hinit
  | refresh => exact ⟨_, .refresh, fun _ => rfl⟩
  | mute => exact ⟨_, .mute, fun _ => rfl⟩
  | unmute => exact ⟨_, .unmute, fun _ => rfl⟩
  | setenabled b => exact ⟨_, .setenabled b, fun _ => rfl⟩
  | setsync b => exact ⟨_, .setsync b, fun _ => rfl⟩
  | refusedA _ | refusedB _ | refusedC _ | refusedD _ | refusedE _ | refusedF _ => cases hcode
  | msgStart _ | msgUpdate _ | msgUpdateAll | msgMasterVolumeAll | msgMuteAll | msgUnmuteAll | msgReserved _ =>
    cases hi

theorem muteRule_completes {s : State} (hs : s.Silent) : Completes (muteRule s) := by
  unfold muteRule
  split
  · exact ⟨s, rfl⟩
  · have hword : Completes (if s.soundEnabled then enqueue (messageWord .mute .all) s else .next s) := by
      split
      · exact enqueue_completes _ hs
      · exact ⟨s, rfl⟩
    obtain ⟨t, ht⟩ := hword
    exact ⟨_, andThen_eq_next.mpr ⟨t, ht, rfl⟩⟩

theorem writeMasteren_completes (d : Byte) {s : State} (hs : s.Silent) : Completes (writeMasteren d s) := by
  unfold writeMasteren
  split
  · exact send_completes _ _ (commit_silent _ _ (s := { s with masterEnable := false }) hs)
  split
  · exact resync_completes [] (s := { s with masterEnable := true }) hs
  · exact ⟨s, rfl⟩

theorem OperationRule.completes {i : Instr} {r : State → Result} (hr : OperationRule i r) {s : State} (hs : s.Silent)
    (hends : ∀ e, i = .advance e → sweepEndless e.toNat s = false) : Completes (r s) := by
  cases hr with
  | write h => exact h.completes hs
  | masteren d => exact writeMasteren_completes d hs
  | advance e => exact advance_completes hs (hends e rfl)
  | getnext => exact ⟨_, rfl⟩
  | vblank => exact ⟨_, rfl⟩
  | refresh => exact refresh_completes [] hs
  | mute => exact muteRule_completes hs
  | unmute =>
    unfold unmuteRule
    split
    · exact refresh_completes _ (s := { s with target := .real, muted := false }) hs
    · exact ⟨s, rfl⟩
  | setenabled b =>
    unfold setEnabled
    split
    · exact refresh_completes [] (s := { s with soundEnabled := b }) hs
    · exact ⟨_, rfl⟩
  | setsync b => exact ⟨_, rfl⟩

theorem execInit_ready {s : State} (h : s.Ready) :
    execInit s = if s.consumerActive then .fault .initWhileConsumerActive else .next (initState s) := by
  obtain ⟨hcfg, hstarted, hheld⟩ := h
  simp [execInit, hcfg, hstarted, hheld]

/-- Settles O14: an operation is its rule behind an open guard, and every rule completes; `INIT` by its own guard. -/
theorem everyOperationCompletes : Obligations.EveryOperationCompletes := by
  intro i s hi hcode hready hs hidle hhalts
  by_cases hinit : i = .init
  · subst hinit
    exact ⟨initState s, (execInit_ready hready).trans (if_neg (by simp [hidle rfl]))⟩
  · obtain ⟨r, hr, hexec⟩ := exec_eq_issue hi hinit hcode
    obtain ⟨hcfg, hstarted, hheld⟩ := hready
    rw [hexec, issue_ready r hcfg hstarted hheld]
    exact hr.completes hs fun e he => sweepEndless_of_halts (hhalts e he)

end Sys2Proof.Machine
end

section
/-! The refused words at run time (R92). -/

namespace Sys2Proof.Machine

/-- In a state where the host may issue operations, only the reserved codes are refused: `INIT` and `ADVANCE` may end in a
fault, but not in a refusal. -/
theorem exec_refused_iff {i : Instr} {s : State} (hi : i.interface = .operation) (hready : s.Ready) (hs : s.Silent) :
    (∃ x, exec i s = .refused x) ↔ isReservedCode i = true := by
  refine ⟨?_, fun hcode => ⟨_, exec_reservedCode hcode s⟩⟩
  rintro ⟨x, hx⟩
  by_contra hcode
  rw [Bool.not_eq_true] at hcode
  by_cases hinit : i = .init
  · subst hinit
    have h := (execInit_ready hready).symm.trans hx
    split at h <;> cases h
  obtain ⟨hcfg, hstarted, hheld⟩ := hready
  by_cases hends : ∀ e, i = .advance e → sweepEndless e.toNat s = false
  · obtain ⟨r, hr, hexec⟩ := exec_eq_issue hi hinit hcode
    obtain ⟨t, ht⟩ := hr.completes hs hends
    rw [hexec, issue_ready r hcfg hstarted hheld, ht] at hx
    cases hx
  · simp only [not_forall, Bool.not_eq_false] at hends
    obtain ⟨e, rfl, he⟩ := hends
    have hfault : exec (.advance e) s = .fault .endlessSweep :=
      (issue_ready (advance e) hcfg hstarted hheld).trans (if_pos he)
    cases hfault.symm.trans hx

/-- Settles O3: a word that does not decode is refused for a field, and one that decodes is refused as its instruction
is, for a reserved code. -/
theorem refusedWordsAreExactlyTheseOfR92 : Obligations.RefusedWordsAreExactlyTheseOfR92 := by
  intro s w hready hs
  change _ ↔ _ ∨ NonzeroField w
  cases hw : decodeOperation w with
  | error e =>
    rw [runWord_error hw]
    exact ⟨fun _ => .inr (nonzeroField_of_error hw), fun _ => ⟨_, rfl⟩⟩
  | ok i =>
    obtain ⟨hzero, hreserved⟩ := decodeOperation_ok_numbers hw
    rw [runWord_ok hw, exec_refused_iff (encode_of_decodeOperation hw).1 hready hs, hreserved, or_iff_left hzero]

end Sys2Proof.Machine
end

section
/-! A channel-register write as the host issues it (R120, R121): its rule, and its result while the consumer makes no
move. -/

namespace Sys2Proof.Machine

/-! ### The instruction and its rule -/

/-- A channel-register write is its body in the frame of R121, behind the guard (R309). -/
theorem RegisterWrite.exec_eq {i : Instr} {c : Chan} {body : State → State × Bool} (h : RegisterWrite i c body)
    (s : State) : exec i s = issue s (channelWrite c body) := by cases h <;> rfl

/-- Every instruction that `channelRegister` lists is one of the 18 register writes. -/
theorem registerWrite_of_channelRegister {i : Instr} {c : Chan} (h : channelRegister i = some c) :
    ∃ body, RegisterWrite i c body := by
  cases i with
  | writeSweep1 _ | writeLenduty1 _ | writeEnv1 _ | writeFreqlo1 _ | writeFreqhi1 _ | writeLenduty2 _ | writeEnv2 _
  | writeFreqlo2 _ | writeFreqhi2 _ | writeDacen3 _ | writeLen3 _ | writeLevel3 _ | writeFreqlo3 _ | writeFreqhi3 _
  | writeLen4 _ | writeEnv4 _ | writePoly4 _ | writeTrig4 _ =>
    cases h
    exact ⟨_, by constructor⟩
  | _ => cases h

/-! ### The result while the consumer makes no move -/

theorem ChannelsKept.trans {s t u : State} (h : ChannelsKept s t) (h' : ChannelsKept t u) : ChannelsKept s u := by
  obtain ⟨h0, h1, h2, h3⟩ := h
  obtain ⟨h0', h1', h2', h3'⟩ := h'
  exact ⟨h0'.trans h0, h1'.trans h1, h2'.trans h2, h3'.trans h3⟩

section Silent

variable {i : Instr} {c : Chan} {body : State → State × Bool} (h : RegisterWrite i c body)
  {s : State} (hready : s.Ready) (hs : s.Silent)
include h hready hs

/-- The write completes, with the records, commits and reports of its update and the message of R121. -/
theorem RegisterWrite.exec_silent :
    ∃ t, exec i s = .next t
      ∧ recordSide t = recordSide (channelUpdate c (s.voice c).on (body s))
      ∧ (if admitsTrigger i s = true then Sends (messageWord .start (.one c)) s t
         else if (localUpdate c (body s)).params c ≠ s.params c then Sends (messageWord .update (.one c)) s t
         else SendsNothing s t) := by
  obtain ⟨hcfg, hstarted, hheld⟩ := hready
  obtain ⟨t, ht, hside, hmessage, _⟩ := channelWrite_silent h.registerBody hs
  rw [h.trigger] at hmessage
  refine ⟨t, ?_, recordSide_of_sentSide hside, hmessage⟩
  rw [h.exec_eq, issue_ready _ hcfg hstarted hheld, ht]

/-- A trigger restarts the channel over what the body wrote, and sends `Start(i)` only. -/
theorem RegisterWrite.exec_trigger (htrig : admitsTrigger i s = true) :
    ∃ t, exec i s = .next t ∧ ChannelsKept (triggerLocal c (body s).1) t
      ∧ Sends (messageWord .start (.one c)) s t := by
  obtain ⟨t, ht, hside, hmessage⟩ := h.exec_silent hready hs
  have hrecords : ChannelsKept (localUpdate c (body s)) t :=
    ChannelsKept.trans (channelUpdate_records c _ (body s)) (ledger_channels (ledger_of_recordSide hside))
  rw [localUpdate, if_pos ((h.trigger s).trans htrig)] at hrecords
  rw [if_pos htrig] at hmessage
  exact ⟨t, ht, hrecords, hmessage⟩

/-- Without a trigger the records are as the body wrote them, and `Update(i)` goes out exactly when a compared value has
changed, which is what `P` says. -/
theorem RegisterWrite.exec_update {P : Prop} [Decidable P] (htrig : admitsTrigger i s = false)
    (hP : (body s).1.params c ≠ s.params c ↔ P) :
    ∃ t, exec i s = .next t ∧ ChannelsKept (body s).1 t
      ∧ (if P then Sends (messageWord .update (.one c)) s t else SendsNothing s t) := by
  obtain ⟨t, ht, hside, hmessage⟩ := h.exec_silent hready hs
  have hrecords : ChannelsKept (localUpdate c (body s)) t :=
    ChannelsKept.trans (channelUpdate_records c _ (body s)) (ledger_channels (ledger_of_recordSide hside))
  have hlocal : localUpdate c (body s) = (body s).1 := by simp [localUpdate, h.trigger, htrig]
  rw [hlocal] at hrecords
  rw [if_neg (by simp [htrig]), hlocal, if_congr hP rfl rfl] at hmessage
  exact ⟨t, ht, hrecords, hmessage⟩

/-- Without a trigger, and with no compared value changed, nothing is sent. -/
theorem RegisterWrite.exec_quiet (htrig : admitsTrigger i s = false) (hsame : (body s).1.params c = s.params c) :
    ∃ t, exec i s = .next t ∧ ChannelsKept (body s).1 t ∧ SendsNothing s t := by
  obtain ⟨t, ht, hrecords, hmessage⟩ := h.exec_update hready hs htrig (P := False) (by simp [hsame])
  exact ⟨t, ht, hrecords, by simpa using hmessage⟩

end Silent

end Sys2Proof.Machine
end

section
/-! The operand forms in the terms of the statements (R95, R107, R123 to R125, R143), and the test for a changed channel
when one value may have changed (R121). -/

namespace Sys2Proof.Machine

/-! ### The frequency assembly -/

/-- Replacing bits 7:0 by masking is replacing them in the number (R124). -/
theorem lowReplaced_eq (f : BitVec 12) (d : Byte) : lowReplaced f d = withFreqLow f d := by
  have hnum : f.toNat / 256 % 8 * 256 + d.toNat = 2 ^ 8 * (f.toNat / 2 ^ 8 % 2 ^ 3) + d.toNat := by omega
  refine BitVec.eq_of_getLsbD_eq fun k hk => ?_
  rw [lowReplaced, hnum, BitVec.getLsbD_ofNat, Nat.testBit_two_pow_mul_add _ d.isLt, Nat.testBit_mod_two_pow,
    Nat.testBit_div_two_pow, BitVec.testBit_toNat, BitVec.testBit_toNat]
  interval_cases k <;> simp [withFreqLow]

/-- Replacing bits 10:8 by masking is replacing them in the number (R125). -/
theorem highReplaced_eq (f : BitVec 12) (d : Byte) : highReplaced f d = withFreqHigh f d := by
  have hnum : d.toNat % 8 * 256 + f.toNat % 256 = 2 ^ 8 * (d.toNat % 2 ^ 3) + f.toNat % 2 ^ 8 := by omega
  refine BitVec.eq_of_getLsbD_eq fun k hk => ?_
  rw [highReplaced, hnum, BitVec.getLsbD_ofNat, Nat.testBit_two_pow_mul_add _ (Nat.mod_lt _ (by decide)),
    Nat.testBit_mod_two_pow, Nat.testBit_mod_two_pow, BitVec.testBit_toNat, BitVec.testBit_toNat]
  interval_cases k <;> simp [withFreqHigh, freqHighOf]

/-! ### Reloads -/

theorem lengthOf_toNat (d : Byte) : (lengthOf d).toNat = d.toNat % 64 := by
  simp [lengthOf, BitVec.extractLsb'_toNat]

/-- The sweep counter that a trigger loads (R143), by the number of the sweep time. -/
theorem triggerSweepCounter_eq (s : State) :
    triggerSweepCounter s = if s.ch0.sweep.time.toNat = 0 then (0 : Int)
      else (s.cfg.clockSpeed / (128 / s.ch0.sweep.time.toNat) : Nat) := by
  unfold triggerSweepCounter sweepPeriod
  simp only [ne_eq, ite_not, ← BitVec.toNat_inj, BitVec.toNat_ofNat, Nat.zero_mod]

/-- The length data lies below the channel's maximum. -/
theorem len_lt_maxLen (s : State) (c : Chan) : s.len c < maxLen c := by
  cases c <;> exact BitVec.isLt _

theorem maxLen_le (c : Chan) : maxLen c ≤ 256 := by cases c <;> decide

/-! ### One value of the comparison -/

/-- Zero-extension loses nothing (R37). -/
theorem setWidth_inj {n m : Nat} (h : n ≤ m) {x y : BitVec n} : x.setWidth m = y.setWidth m ↔ x = y := by
  refine ⟨fun he => ?_, congrArg _⟩
  simpa [BitVec.setWidth_setWidth_of_le _ h] using congrArg (BitVec.setWidth n) he

section OneValue

variable {n : Nat} {on : Bool} {vol duty : Byte} {freq : BitVec 16} {x y : BitVec n}

theorem params_ne_iff_freq (hn : n ≤ 16) :
    (⟨on, vol, x.setWidth 16, duty⟩ : Params) ≠ ⟨on, vol, y.setWidth 16, duty⟩ ↔ x ≠ y := by
  simp [setWidth_inj hn]

theorem params_ne_iff_vol (hn : n ≤ 8) :
    (⟨on, x.setWidth 8, freq, duty⟩ : Params) ≠ ⟨on, y.setWidth 8, freq, duty⟩ ↔ x ≠ y := by
  simp [setWidth_inj hn]

theorem params_ne_iff_duty (hn : n ≤ 8) :
    (⟨on, vol, freq, x.setWidth 8⟩ : Params) ≠ ⟨on, vol, freq, y.setWidth 8⟩ ↔ x ≠ y := by
  simp [setWidth_inj hn]

/-- An on flag that is kept or cleared has changed exactly when it was set and is cleared. -/
theorem params_ne_iff_off {keep : Bool} :
    (⟨on && keep, vol, freq, duty⟩ : Params) ≠ ⟨on, vol, freq, duty⟩ ↔ on = true ∧ keep = false := by
  cases on <;> cases keep <;> simp

end OneValue

end Sys2Proof.Machine
end

section
/-! Each channel register (R122 to R129, R140 to R145, R150, R152, R160): its record after the write and its message. -/

namespace Sys2Proof.Machine

/-- Settles O18: the length data lies below the maximum, so that between 1 and 256 units are left. -/
theorem lengthReloadIsR130 : Obligations.LengthReloadIsR130 := by
  intro cfg s c _
  have hlen := len_lt_maxLen s c
  have hmax := maxLen_le c
  have hlow : cfg.clockSpeed / 256 ≤ (maxLen c - s.len c) * cfg.clockSpeed / 256 :=
    Nat.div_le_div_right (Nat.le_mul_of_pos_left _ (by omega))
  have hhigh : (maxLen c - s.len c) * cfg.clockSpeed / 256 ≤ cfg.clockSpeed :=
    Nat.div_le_of_le_mul (Nat.mul_le_mul_right _ (by omega))
  exact ⟨by cases c <;> rfl, Int.ofNat_le.mpr hlow, Int.ofNat_le.mpr hhigh⟩

/-- Settles O19: the bodies write no compared value and ask for no trigger. -/
theorem sweepAndEnvelopeWrites : Obligations.SweepAndEnvelopeWrites := by
  intro s d hready hs
  refine ⟨?sweep1, ?env1, ?env2, ?env4⟩
  case sweep1 =>
    obtain ⟨t, ht, ⟨h0, _, _, _⟩, hmessage⟩ := (RegisterWrite.sweep1 d).exec_quiet hready hs rfl rfl
    exact ⟨t, ht, hmessage, h0⟩
  case env1 =>
    obtain ⟨t, ht, ⟨h0, _, _, _⟩, hmessage⟩ := (RegisterWrite.env1 d).exec_quiet hready hs rfl rfl
    exact ⟨t, ht, hmessage, h0⟩
  case env2 =>
    obtain ⟨t, ht, ⟨_, h1, _, _⟩, hmessage⟩ := (RegisterWrite.env2 d).exec_quiet hready hs rfl rfl
    exact ⟨t, ht, hmessage, h1⟩
  case env4 =>
    obtain ⟨t, ht, ⟨_, _, _, h3⟩, hmessage⟩ := (RegisterWrite.env4 d).exec_quiet hready hs rfl rfl
    exact ⟨t, ht, hmessage, h3⟩

/-- Settles O20: of the compared values the bodies write the duty only. -/
theorem lengthDutyWrites : Obligations.LengthDutyWrites := by
  intro s d hready hs
  rw [← lengthOf_toNat d]
  constructor
  · obtain ⟨t, ht, ⟨h0, _, _, _⟩, hmessage⟩ :=
      (RegisterWrite.lenduty1 d).exec_update hready hs rfl (params_ne_iff_duty (by decide))
    exact ⟨t, ht, h0, hmessage⟩
  · obtain ⟨t, ht, ⟨_, h1, _, _⟩, hmessage⟩ :=
      (RegisterWrite.lenduty2 d).exec_update hready hs rfl (params_ne_iff_duty (by decide))
    exact ⟨t, ht, h1, hmessage⟩

/-- Settles O21: of the compared values the bodies write the frequency only. -/
theorem frequencyLowWrites : Obligations.FrequencyLowWrites := by
  intro s d hready hs
  simp only [lowReplaced_eq]
  refine ⟨?freqlo1, ?freqlo2, ?freqlo3⟩
  case freqlo1 =>
    obtain ⟨t, ht, ⟨h0, _, _, _⟩, hmessage⟩ :=
      (RegisterWrite.freqlo1 d).exec_update hready hs rfl (params_ne_iff_freq (by decide))
    exact ⟨t, ht, h0, hmessage⟩
  case freqlo2 =>
    obtain ⟨t, ht, ⟨_, h1, _, _⟩, hmessage⟩ :=
      (RegisterWrite.freqlo2 d).exec_update hready hs rfl (params_ne_iff_freq (by decide))
    exact ⟨t, ht, h1, hmessage⟩
  case freqlo3 =>
    obtain ⟨t, ht, ⟨_, _, h2, _⟩, hmessage⟩ :=
      (RegisterWrite.freqlo3 d).exec_update hready hs rfl (params_ne_iff_freq (by decide))
    exact ⟨t, ht, h2, hmessage⟩

/-- Settles O22: with no trigger admitted, of the compared values the bodies write the frequency only, and `TRIG4`'s
none. -/
theorem frequencyHighWritesWithoutTrigger : Obligations.FrequencyHighWritesWithoutTrigger := by
  intro s d hready hs
  simp only [highReplaced_eq]
  refine ⟨fun hbit => ⟨?freqhi1, ?freqhi2, ?trig4⟩, fun hgate => ?freqhi3⟩
  case freqhi1 =>
    obtain ⟨t, ht, ⟨h0, _, _, _⟩, hmessage⟩ :=
      (RegisterWrite.freqhi1 d).exec_update hready hs hbit (params_ne_iff_freq (by decide))
    exact ⟨t, ht, h0, hmessage⟩
  case freqhi2 =>
    obtain ⟨t, ht, ⟨_, h1, _, _⟩, hmessage⟩ :=
      (RegisterWrite.freqhi2 d).exec_update hready hs hbit (params_ne_iff_freq (by decide))
    exact ⟨t, ht, h1, hmessage⟩
  case trig4 =>
    obtain ⟨t, ht, ⟨_, _, _, h3⟩, hmessage⟩ := (RegisterWrite.trig4 d).exec_quiet hready hs hbit rfl
    exact ⟨t, ht, hmessage, h3⟩
  case freqhi3 =>
    obtain ⟨t, ht, ⟨_, _, h2, _⟩, hmessage⟩ :=
      (RegisterWrite.freqhi3 d).exec_update hready hs (Bool.and_eq_false_iff.mpr hgate) (params_ne_iff_freq (by decide))
    exact ⟨t, ht, h2, hmessage⟩

/-- Settles O23: the trigger of R140 over what the body wrote, and `Start(i)` in place of the comparison. -/
theorem triggersRestartTheChannel : Obligations.TriggersRestartTheChannel := by
  intro s d hready hs hbit
  rw [← triggerSweepCounter_eq]
  simp only [highReplaced_eq]
  refine ⟨?freqhi1, ?freqhi2, fun hdac => ?freqhi3, ?trig4⟩
  case freqhi1 =>
    obtain ⟨t, ht, ⟨h0, _, _, _⟩, hmessage⟩ := (RegisterWrite.freqhi1 d).exec_trigger hready hs hbit
    exact ⟨t, ht, hmessage, h0⟩
  case freqhi2 =>
    obtain ⟨t, ht, ⟨_, h1, _, _⟩, hmessage⟩ := (RegisterWrite.freqhi2 d).exec_trigger hready hs hbit
    exact ⟨t, ht, hmessage, h1⟩
  case freqhi3 =>
    obtain ⟨t, ht, ⟨_, _, h2, _⟩, hmessage⟩ :=
      (RegisterWrite.freqhi3 d).exec_trigger hready hs (Bool.and_eq_true_iff.mpr ⟨hbit, hdac⟩)
    exact ⟨t, ht, hmessage, h2⟩
  case trig4 =>
    obtain ⟨t, ht, ⟨_, _, _, h3⟩, hmessage⟩ := (RegisterWrite.trig4 d).exec_trigger hready hs hbit
    exact ⟨t, ht, hmessage, h3⟩

/-- Settles O24: of the compared values the body writes the on flag only, and it can only clear it. -/
theorem dacWrites : Obligations.DacWrites := by
  intro s d hready hs
  obtain ⟨t, ht, ⟨_, _, h2, _⟩, hmessage⟩ := (RegisterWrite.dacen3 d).exec_update hready hs rfl params_ne_iff_off
  exact ⟨t, ht, h2, hmessage⟩

/-- Settles O25: the length writes touch no compared value, `LEVEL3` the volume and `POLY4` the frequency only. -/
theorem lengthLevelAndPolyWrites : Obligations.LengthLevelAndPolyWrites := by
  intro s d hready hs
  rw [← lengthOf_toNat d]
  refine ⟨?len3, ?len4, ?level3, ?poly4⟩
  case len3 =>
    obtain ⟨t, ht, ⟨_, _, h2, _⟩, hmessage⟩ := (RegisterWrite.len3 d).exec_quiet hready hs rfl rfl
    exact ⟨t, ht, hmessage, h2⟩
  case len4 =>
    obtain ⟨t, ht, ⟨_, _, _, h3⟩, hmessage⟩ := (RegisterWrite.len4 d).exec_quiet hready hs rfl rfl
    exact ⟨t, ht, hmessage, h3⟩
  case level3 =>
    obtain ⟨t, ht, ⟨_, _, h2, _⟩, hmessage⟩ :=
      (RegisterWrite.level3 d).exec_update hready hs rfl (params_ne_iff_vol (by decide))
    exact ⟨t, ht, h2, hmessage⟩
  case poly4 =>
    obtain ⟨t, ht, ⟨_, _, _, h3⟩, hmessage⟩ :=
      (RegisterWrite.poly4 d).exec_update hready hs rfl (params_ne_iff_freq (by decide))
    exact ⟨t, ht, h3, hmessage⟩

end Sys2Proof.Machine
end

section
/-! The frame of every channel-register write (R20, R37, R121, R288): what it commits, sends and reports, and what it
leaves unchanged. -/

namespace Sys2Proof.Machine

/-! ### The block that P writes -/

/-- A send changes no committed channel parameter of the block P writes. -/
theorem recordSide_sb {s t : State} (h : recordSide t = recordSide s) :
    t.sb.onMask = s.sb.onMask ∧ t.sb.vol = s.sb.vol ∧ t.sb.freq = s.sb.freq ∧ t.sb.duty = s.sb.duty := by
  unfold State.sb
  rw [recordSide_target h]
  cases s.target with
  | real => exact ⟨recordSide_onMask h, recordSide_rsb_vol h, recordSide_rsb_freq h, recordSide_rsb_duty h⟩
  | dummy => simp [recordSide_dsb h]

section Commits

variable {c : Chan} {body : State → State × Bool} (hb : RegisterBody c body) (on : Bool) {s : State}
  (he : s.soundEnabled = true)
include hb he

/-- The volume, the frequency and, for channels 0 and 1, the duty are committed as the record then holds them (R37). -/
theorem channelUpdate_commits_params :
    (channelUpdate c on (body s)).sb.vol.get c = (channelUpdate c on (body s)).vol c
      ∧ (channelUpdate c on (body s)).sb.freq.get c = (channelUpdate c on (body s)).freq c
      ∧ (c = .c0 ∨ c = .c1 → (channelUpdate c on (body s)).sb.duty.get c = (channelUpdate c on (body s)).duty c) := by
  have hparams := channelUpdate_params c on (body s) c
  have hvol := congrArg Params.vol hparams
  have hfreq := congrArg Params.freq hparams
  have hduty := congrArg Params.duty hparams
  simp only [State.params] at hvol hfreq hduty
  rw [hvol, hfreq, hduty, channelUpdate_sb hb on s, if_pos he]
  simp +contextual [apply_ite SharedBlock.vol, apply_ite SharedBlock.freq, apply_ite SharedBlock.duty,
    SharedBlock.put_vol_of_ne, SharedBlock.put_freq_of_ne, SharedBlock.put_duty_of_ne, PerChan.get_set]

/-- The on-mask is committed with the channel's bit cleared when the write switched it off, and set by a trigger
(R121). -/
theorem channelUpdate_commits_onBit (j : Chan) :
    maskBit (channelUpdate c on (body s)).sb.onMask j
      = if j ≠ c then maskBit s.sb.onMask j
        else if (body s).2 = true then true
        else if on = true ∧ ((localUpdate c (body s)).voice c).on = false then false
        else maskBit s.sb.onMask c := by
  rw [channelUpdate_sb hb on s, if_pos he]
  simp only [Bool.and_eq_true, Bool.not_eq_true']
  generalize hblock : (if c = .c0 ∨ c = .c1 then _ else _ : SharedBlock) = b
  have hmask : b.onMask = s.sb.onMask := by rw [← hblock]; split <;> rfl
  rw [← hmask]
  by_cases hj : j = c
  · subst hj
    split
    · simp [maskBit_withMaskBit]
    · split <;> simp [maskBit_withMaskBit]
  · rw [if_pos hj]
    split <;> split <;> simp [maskBit_withMaskBit, hj]

end Commits

theorem recordSide_runningCounters {s t : State} (h : recordSide t = recordSide s) (c : Chan) :
    runningCounters c t = runningCounters c s := by
  simp only [runningCounters, recordSide_voice h, recordSide_env h, recordSide_ch0 h]

/-- Settles O26: the update commits, reports and leaves the message of R121, and the send changes none of its records,
commits and reports. -/
theorem channelWritesFollowTheFrame : Obligations.ChannelWritesFollowTheFrame := by
  intro i c s hi hready hs
  obtain ⟨body, h⟩ := registerWrite_of_channelRegister hi
  obtain ⟨t, ht, hside, hmessage⟩ := h.exec_silent hready hs
  have hparams : t.params c = (localUpdate c (body s)).params c :=
    (recordSide_params hside c).trans (channelUpdate_params ..)
  have hvoice : t.voice c = (localUpdate c (body s)).voice c :=
    (recordSide_voice hside c).trans (channelUpdate_voice ..)
  obtain ⟨hmask, hvol, hfreq, hduty⟩ := recordSide_sb hside
  refine ⟨t, ht, fun he => ?commits, hparams ▸ hmessage, ?reports⟩
  case commits =>
    obtain ⟨hvol', hfreq', hduty'⟩ := channelUpdate_commits_params h.registerBody (s.voice c).on he
    rw [hmask, hvol, hfreq, hduty, recordSide_vol hside, recordSide_freq hside, recordSide_duty hside, hvoice,
      ← h.trigger]
    exact ⟨hvol', hfreq', hduty', channelUpdate_commits_onBit h.registerBody _ he⟩
  case reports =>
    rw [recordSide_nextEvent hside, recordSide_runningCounters hside]
    exact channelUpdate_nextEvent h.registerBody _ s

/-! ### What a write leaves unchanged -/

theorem OtherChannelsKept.trans_kept {c : Chan} {s t u : State} (h : OtherChannelsKept c s t) (h' : ChannelsKept t u) :
    OtherChannelsKept c s u := by
  obtain ⟨h0, h1, h2, h3⟩ := h
  obtain ⟨h0', h1', h2', h3'⟩ := h'
  exact ⟨fun hc => h0'.trans (h0 hc), fun hc => h1'.trans (h1 hc), fun hc => h2'.trans (h2 hc),
    fun hc => h3'.trans (h3 hc)⟩

theorem recordSide_modes {s t : State} (h : recordSide t = recordSide s) : ModesKept s t :=
  ⟨recordSide_cfg h, recordSide_masterEnable h, recordSide_soundEnabled h, recordSide_muted h, recordSide_target h,
    recordSide_accurateSync h, recordSide_started h, recordSide_sampleBuf h, recordSide_io h, recordSide_stream h⟩

theorem recordSide_bytes {s t : State} (h : recordSide t = recordSide s) : BytesKept s t :=
  ⟨recordSide_masterVolume h, recordSide_routing h, recordSide_producerFlip h⟩

theorem ModesKept.trans {s t u : State} (h : ModesKept s t) (h' : ModesKept t u) : ModesKept s u := by
  simp only [ModesKept] at h h' ⊢
  simp only [h', h, and_self]

theorem BytesKept.trans {s t u : State} (h : BytesKept s t) (h' : BytesKept t u) : BytesKept s u := by
  simp only [BytesKept] at h h' ⊢
  simp only [h', h, and_self]

/-- Settles O27: the update keeps everything but the channel's record, its commits and the report, and a send keeps the
record side and every byte but the fields of the protocol. -/
theorem channelWriteFrame : Obligations.ChannelWriteFrame := by
  intro i c s t hi ht
  obtain ⟨body, h⟩ := registerWrite_of_channelRegister hi
  rw [h.exec_eq] at ht
  obtain ⟨_, _, _, hwrite⟩ := issue_eq_next.mp ht
  have hb := h.registerBody
  have hside := channelWrite_next hwrite
  have hrest := channelUpdate_rest hb (s.voice c).on s
  refine ⟨?others, ?modes, ?bytes, ?output, channelWrite_memory hb hwrite⟩
  case others => exact (channelUpdate_others hb _ s).trans_kept (ledger_channels (ledger_of_recordSide hside))
  case modes => exact ModesKept.trans (restSide_modes hrest) (recordSide_modes hside)
  case bytes => exact BytesKept.trans (restSide_bytes hrest) (recordSide_bytes hside)
  case output => exact (recordSide_events hside).trans (by rw [channelUpdate_events hb])

end Sys2Proof.Machine
end

section
/-! The global registers (R170, R172, R176, R178) and the addresses that no register has (R190, R191). -/

namespace Sys2Proof.Machine

theorem issue_of_ready {s : State} (h : s.Ready) (k : State → Result) : issue s k = k s := by
  obtain ⟨hcfg, hstarted, hheld⟩ := h
  exact issue_ready k hcfg hstarted hheld

/-! ### Addresses that no register has -/

/-- The dispatch of an unmapped address of the window has no effect either (R190). -/
theorem dispatch_unmapped {a : Byte} (ha : a = 0x15#8 ∨ a = 0x1F#8 ∨ (0x27#8 ≤ a ∧ a ≤ 0x2F#8)) (d : Byte)
    (s : State) : dispatch a d s = .next s := by
  have hlist : a = 0x15#8 ∨ a = 0x1F#8 ∨ a = 0x27#8 ∨ a = 0x28#8 ∨ a = 0x29#8 ∨ a = 0x2A#8 ∨ a = 0x2B#8 ∨ a = 0x2C#8
      ∨ a = 0x2D#8 ∨ a = 0x2E#8 ∨ a = 0x2F#8 := by bv_omega
  rcases hlist with rfl | rfl | rfl | rfl | rfl | rfl | rfl | rfl | rfl | rfl | rfl <;> rfl

/-- Settles O33: each of the eleven addresses has the rule without effect, issued or dispatched. -/
theorem unmappedWritesDoNothing : Obligations.UnmappedWritesDoNothing := by
  intro s d hready
  have h : issue s noEffect = .next s := issue_of_ready hready noEffect
  exact ⟨h, h, h, h, h, h, h, h, h, h, h, fun a ha => dispatch_unmapped ha d s⟩

/-- Settles O34: each of the thirteen high digits has the rule without effect. -/
theorem outOfWindowWritesDoNothing : Obligations.OutOfWindowWritesDoNothing := by
  intro s lo d hready
  have h : issue s noEffect = .next s := issue_of_ready hready noEffect
  exact ⟨h, h, h, h, h, h, h, h, h, h, h, h, h⟩

/-! ### What P commits before it sends -/

/-- From `s` to `t` P commits fields of `fs` only: every other byte of memory stays, and so does what says which block P
writes, and whether (R33, R288). -/
structure CommitsOnly (fs : List Field) (s t : State) : Prop where
  cfg          : t.cfg = s.cfg
  soundEnabled : t.soundEnabled = s.soundEnabled
  target       : t.target = s.target
  bytes        : ∀ a, (s.soundEnabled = true → ∀ f ∈ fs, ¬inField s.blockBase f a) → t.memByte a = s.memByte a

/-- A change of P's own records commits nothing. -/
theorem CommitsOnly.own {fs : List Field} {s t : State} (hc : t.cfg = s.cfg) (he : t.soundEnabled = s.soundEnabled)
    (ht : t.target = s.target) (hr : t.rsb = s.rsb) (hd : t.dsb = s.dsb) (hb : t.sampleBuf = s.sampleBuf) :
    CommitsOnly fs s t := ⟨hc, he, ht, fun a _ => memByte_congr hc hr hd hb a⟩

theorem CommitsOnly.blockBase {fs : List Field} {s t : State} (h : CommitsOnly fs s t) : t.blockBase = s.blockBase := by
  simp only [State.blockBase, h.target, h.cfg]

theorem CommitsOnly.trans {fs : List Field} {s t u : State} (h : CommitsOnly fs s t) (h' : CommitsOnly fs t u) :
    CommitsOnly fs s u where
  cfg := h'.cfg.trans h.cfg
  soundEnabled := h'.soundEnabled.trans h.soundEnabled
  target := h'.target.trans h.target
  bytes a ha := (h'.bytes a (by rwa [h.soundEnabled, h.blockBase])).trans (h.bytes a ha)

theorem CommitsOnly.commit {fs : List Field} {f : Field} (hf : f ∈ fs) (v : Word) (s : State) :
    CommitsOnly fs s (commit f v s) :=
  ⟨commit_cfg s f v, commit_soundEnabled s f v, commit_target s f v, fun _ ha => commit_memByte fun he => ha he f hf⟩

/-- The fields of a block that no `Send` reads or writes (R35). -/
def Field.isPublished : Field → Bool
  | .onMask | .masterVolume | .routing | .hyperSync | .vol _ | .freq _ | .pan _ | .duty _ => true
  | _ => false

theorem protocolSide_commit {f : Field} (hf : f.isPublished = true) (v : Word) (s : State) :
    protocolSide (commit f v s) = protocolSide s := by
  rcases commit_eq s f v with h | h | h <;> rw [h]
  · cases f
    case onMask | masterVolume | routing | hyperSync | vol | freq | pan | duty => rfl
    all_goals cases hf
  · rfl

theorem commit_modes (f : Field) (v : Word) (s : State) : ModesKept s (commit f v s) := by simp [ModesKept]

/-- A send after commits, while the consumer makes no move: the message is sent as from the state before the commits, and
besides the protocol's fields it changes no byte that the commits keep. -/
theorem send_after_commits {fs : List Field} (k : MsgKind) (c : MsgChan) {s u : State} (hs : s.Silent)
    (hside : protocolSide u = protocolSide s) (hc : CommitsOnly fs s u) :
    ∃ t, send k c u = .next t ∧ recordSide t = recordSide u ∧ Sends (messageWord k c) s t
      ∧ MemoryKeptOutside fs s t := by
  have hu : u.Silent := Eq.trans (congrArg (fun v => v.turns) hside) hs
  obtain ⟨t, ht, hsent, hsends, _⟩ := send_silent k c hu
  refine ⟨t, ht, recordSide_of_sentSide hsent, hsends.congr hside, fun a hfields hprotocol _ => ?_⟩
  have hprotocol' : ¬inProtocolField u a := by simpa only [inProtocolField, hc.cfg] using hprotocol
  exact (sentSide_memByte hsent hprotocol').trans (hc.bytes a hfields)

/-- A send changes no committed global of the block P writes. -/
theorem recordSide_sb_globals {s t : State} (h : recordSide t = recordSide s) :
    t.sb.masterVolume = s.sb.masterVolume ∧ t.sb.routing = s.sb.routing ∧ t.sb.pan = s.sb.pan
      ∧ t.sb.hyperSync = s.sb.hyperSync ∧ t.sb.producerFlip = s.sb.producerFlip := by
  unfold State.sb
  rw [recordSide_target h]
  cases s.target with
  | real =>
    exact ⟨recordSide_rsb_masterVolume h, recordSide_rsb_routing h, recordSide_rsb_pan h, recordSide_rsb_hyperSync h,
      recordSide_rsb_producerFlip h⟩
  | dummy => simp [recordSide_dsb h]

/-! ### MASTERVOL (R170) -/

theorem mastervolUpdate_sb (d : Byte) (s : State) :
    (mastervolUpdate d s).sb = if s.soundEnabled then { s.sb with masterVolume := d } else s.sb := by
  rw [mastervolUpdate, commit_sb]
  simp [SharedBlock.put, State.sb]

theorem mastervolUpdate_commits (d : Byte) (s : State) : CommitsOnly [.masterVolume] s (mastervolUpdate d s) :=
  CommitsOnly.trans (t := { s with masterVolume := d }) (.own rfl rfl rfl rfl rfl rfl)
    (.commit (f := .masterVolume) List.mem_cons_self _ _)

theorem mastervolUpdate_protocolSide (d : Byte) (s : State) :
    protocolSide (mastervolUpdate d s) = protocolSide s :=
  protocolSide_commit (f := .masterVolume) rfl _ { s with masterVolume := d }

/-- Settles O28: the rule is one commit and one send, and a send changes none of the records. -/
theorem masterVolumeWrites : Obligations.MasterVolumeWrites := by
  intro s d hready hs
  obtain ⟨t, ht, hside, hsends, hmemory⟩ := send_after_commits .masterVolume .all hs
    (mastervolUpdate_protocolSide d s) (mastervolUpdate_commits d s)
  have hledger : t.ledger = s.ledger :=
    (ledger_of_recordSide hside).trans (ledger_commit .masterVolume _ { s with masterVolume := d })
  refine ⟨t, (issue_of_ready hready _).trans ht, ?byte, fun he => ?committed, hsends, ledger_channels hledger, ?modes,
    ?routing, ?flip, ?next, ?output, hmemory⟩
  case byte => exact (recordSide_masterVolume hside).trans (commit_masterVolume ..)
  case committed => rw [(recordSide_sb_globals hside).1, mastervolUpdate_sb, if_pos he]
  case modes => exact ModesKept.trans (commit_modes _ _ { s with masterVolume := d }) (recordSide_modes hside)
  case routing => exact ledger_routing hledger
  case flip => exact (recordSide_producerFlip hside).trans (commit_producerFlip ..)
  case next => exact (recordSide_nextEvent hside).trans (commit_nextEvent ..)
  case output => rw [NoOutput, recordSide_events hside, mastervolUpdate, commit_events]

/-! ### ROUTING (R172) -/

@[simp] theorem setVoice_sb (i : Chan) (v : Voice) (s : State) : (setVoice i v s).sb = s.sb := by simp [State.sb]

/-- The block after ROUTING: the byte, and the four pans it gives (R24, R172). -/
theorem routingUpdate_sb (d : Byte) (s : State) :
    (routingUpdate d s).sb = if s.soundEnabled then
        { s.sb with
          routing := d
          pan := ⟨(panOf d .c0).setWidth 8, (panOf d .c1).setWidth 8, (panOf d .c2).setWidth 8,
            (panOf d .c3).setWidth 8⟩ }
      else s.sb := by
  have hbyte : State.sb { s with routing := d } = s.sb := rfl
  simp only [routingUpdate, routePan, commit_sb, commit_soundEnabled, setVoice_soundEnabled, setVoice_sb, hbyte]
  split
  · simp [SharedBlock.put, PerChan.set]
  · rfl

/-- What each line of ROUTING keeps, ROUTING keeps. -/
theorem routingUpdate_closed {R : State → State → Prop} (trans : ∀ {s t u}, R s t → R t u → R s u) {d : Byte}
    (byte : ∀ s : State, R s { s with routing := d })
    (voice : ∀ (i : Chan) (s : State), R s (setVoice i { s.voice i with pan := panOf d i } s))
    (pan : ∀ (i : Chan) (v : Word) (s : State), R s (commit (.pan i) v s))
    (last : ∀ (v : Word) (s : State), R s (commit .routing v s)) (s : State) : R s (routingUpdate d s) := by
  have line (i : Chan) (u : State) : R u (routePan d i u) := trans (voice i u) (pan i _ _)
  exact trans (byte s) (trans (line .c0 _) (trans (line .c1 _) (trans (line .c2 _) (trans (line .c3 _) (last _ _)))))

/-- The fields that ROUTING commits (R172). -/
abbrev routingFields : List Field := [.routing, .pan .c0, .pan .c1, .pan .c2, .pan .c3]

theorem routingUpdate_commits (d : Byte) (s : State) : CommitsOnly routingFields s (routingUpdate d s) :=
  routingUpdate_closed (R := CommitsOnly routingFields) CommitsOnly.trans (fun _ => .own rfl rfl rfl rfl rfl rfl)
    (fun i u => by cases i <;> exact .own rfl rfl rfl rfl rfl rfl) (fun i => .commit (by cases i <;> decide))
    (.commit (by decide)) s

theorem routingUpdate_protocolSide (d : Byte) (s : State) : protocolSide (routingUpdate d s) = protocolSide s :=
  routingUpdate_closed (R := fun s t => protocolSide t = protocolSide s) (fun h h' => h'.trans h) (fun _ => rfl)
    (fun i _ => by cases i <;> rfl) (fun _ => protocolSide_commit rfl) (protocolSide_commit rfl) s

/-- What ROUTING leaves alone besides the block, the byte and the pans. -/
theorem routingUpdate_rest (d : Byte) (s : State) :
    ModesKept s (routingUpdate d s) ∧ (routingUpdate d s).masterVolume = s.masterVolume
      ∧ (routingUpdate d s).producerFlip = s.producerFlip ∧ (routingUpdate d s).nextEvent = s.nextEvent
      ∧ (routingUpdate d s).events = s.events ∧ (routingUpdate d s).routing = d := by
  simp [routingUpdate, routePan, ModesKept]

/-- Settles O29: the rule's lines are the byte, the four pans and the commits, and a send changes none of the records. -/
theorem routingWrites : Obligations.RoutingWrites := by
  intro s d hready hs
  obtain ⟨t, ht, hside, hsends, hmemory⟩ := send_after_commits .update .all hs
    (routingUpdate_protocolSide d s) (routingUpdate_commits d s)
  obtain ⟨hmodes, hvolume, hflip, hnext, hevents, hbyte⟩ := routingUpdate_rest d s
  have hledger : t.ledger = (routed d s).ledger := (ledger_of_recordSide hside).trans (routingUpdate_ledger d s)
  have hvoice (i : Chan) : t.voice i = { s.voice i with pan := panOf d i } :=
    (ledger_voice hledger i).trans (routed_voice d s i)
  obtain ⟨h0, h1, h2, h3⟩ := ledger_channels hledger
  obtain ⟨_, hsbRouting, hsbPan, _⟩ := recordSide_sb_globals hside
  refine ⟨t, (issue_of_ready hready _).trans ht, (recordSide_routing hside).trans hbyte, fun i => by rw [hvoice]; rfl,
    fun he => ?committed, hsends, by rw [h0]; rfl, by rw [h1]; rfl, by rw [h2]; rfl, by rw [h3]; rfl,
    hmodes.trans (recordSide_modes hside), (recordSide_masterVolume hside).trans hvolume,
    (recordSide_producerFlip hside).trans hflip, (recordSide_nextEvent hside).trans hnext, ?output, hmemory⟩
  case committed =>
    rw [hsbRouting, hsbPan, routingUpdate_sb, if_pos he]
    exact ⟨rfl, fun i => by rw [hvoice]; cases i <;> rfl⟩
  case output => rw [NoOutput, recordSide_events hside, hevents]

/-! ### MASTEREN without a resync (R176, R178) -/

/-- Settles O30: neither condition of the rule holds (R175). -/
theorem repeatedMasterWritesDoNothing : Obligations.RepeatedMasterWritesDoNothing := by
  intro s d hready hsame
  have hbit : masterOf d = s.masterEnable := hsame
  have hrule : writeMasteren d s = .next s := by
    rw [writeMasteren, hbit]
    cases s.masterEnable <;> rfl
  exact (issue_of_ready hready _).trans hrule

theorem disableUpdate_commits (s : State) : CommitsOnly [.onMask] s (disableUpdate s) :=
  CommitsOnly.trans (t := { s with masterEnable := false }) (.own rfl rfl rfl rfl rfl rfl)
    (.commit (f := .onMask) List.mem_cons_self _ _)

theorem disableUpdate_protocolSide (s : State) : protocolSide (disableUpdate s) = protocolSide s :=
  protocolSide_commit (f := .onMask) rfl _ { s with masterEnable := false }

/-- Settles O31: the rule is one commit and one send; no record is written and no event put out. -/
theorem masterDisableClearsTheOnMask : Obligations.MasterDisableClearsTheOnMask := by
  intro s d hready hs hon hbit
  obtain ⟨t, ht, hside, hsends, hmemory⟩ := send_after_commits .update .all hs
    (disableUpdate_protocolSide s) (disableUpdate_commits s)
  have hrule : writeMasteren d s = .next t := by rw [writeMasteren, if_pos ⟨hbit, hon⟩]; exact ht
  have hledger : t.ledger = s.ledger :=
    (ledger_of_recordSide hside).trans (ledger_commit .onMask _ { s with masterEnable := false })
  refine ⟨t, (issue_of_ready hready _).trans hrule, ?master, fun he => ?mask, hsends, ledger_channels hledger, ?bytes,
    ?modes, ?next, ?output, hmemory⟩
  case master => exact (recordSide_masterEnable hside).trans (commit_masterEnable ..)
  case mask =>
    rw [(recordSide_sb hside).1, disableUpdate, commit_sb, if_pos he]
    rfl
  case bytes => exact BytesKept.trans (by simp [BytesKept, disableUpdate]) (recordSide_bytes hside)
  case modes => exact ModesKept.trans (commit_modes _ _ { s with masterEnable := false }) (recordSide_modes hside)
  case next => exact (recordSide_nextEvent hside).trans (commit_nextEvent ..)
  case output => rw [NoOutput, recordSide_events hside, disableUpdate, commit_events]

end Sys2Proof.Machine
end

section
/-! Sends that cannot hold P while the consumer makes no move (R245 to R249): each as a function of the state, of which it
sees the part that `mailSide` keeps. -/

namespace Sys2Proof.Machine

/-- The consumer makes no move, no `Send` can hold P, and P does not hold. -/
abbrev State.Calm (s : State) : Prop := s.Silent ∧ s.NeverHolds ∧ s.held = none

/-- The state after `Enqueue(w)` while the consumer makes no move (R248). -/
def enqueued (w : Word) (s : State) : State :=
  if s.cfg.dropThreshold ≤ s.outstanding.toNat then diag .thresholdDrop s
  else if s.queue.length = s.cfg.queueCapacity then diag .queueFull s
  else admitted w s

/-- The state after a send of `w` that cannot hold P: `w` goes through `Enqueue`, or a closed gate stops it (R246, R249). -/
def delivered (w : Word) (s : State) : State := if s.Audible then enqueued w s else s

/-- The state after the sends of `ws`, in order. -/
def deliveredAll (ws : List Word) (s : State) : State := ws.foldl (fun u w => delivered w u) s

theorem deliveredAll_append (ws ws' : List Word) (s : State) :
    deliveredAll (ws ++ ws') s = deliveredAll ws' (deliveredAll ws s) := List.foldl_append

theorem delivered_closed {s : State} (ha : ¬s.Audible) (w : Word) : delivered w s = s := if_neg ha

theorem delivered_open {s : State} (ha : s.Audible) (w : Word) : delivered w s = enqueued w s := if_pos ha

theorem send_delivered (k : MsgKind) (c : MsgChan) {s : State} (hs : s.Silent) (hn : s.NeverHolds) :
    send k c s = .next (delivered (messageWord k c) s) := by
  by_cases ha : s.Audible
  · have hopen : ¬(s.soundEnabled = false ∨ s.muted = true) := by simp [ha]
    rw [delivered_open ha, send, if_neg hopen, if_neg (by simp [hn ha])]
    exact enqueue_silent _ hs
  · have hclosed : s.soundEnabled = false ∨ s.muted = true := by
      rwa [not_and_or, Bool.not_eq_true, Bool.not_eq_false] at ha
    rw [delivered_closed ha, send, if_pos hclosed]

/-! ### What a delivery sees and changes -/

/-- The protocol's side of a state without the flip, which only a cycle-accurate send reads (R251). -/
def mailSide (s : State) : State :=
  { protocolSide s with
    producerFlip := false
    rsb := { (protocolSide s).rsb with producerFlip := false } }

theorem mailSide_of_protocolSide {s t : State} (h : protocolSide t = protocolSide s) : mailSide t = mailSide s := by
  simp only [mailSide, h]

theorem mailSide_commit {f : Field} (hf : f.isPublished = true ∨ f = .producerFlip) (v : Word) (s : State) :
    mailSide (commit f v s) = mailSide s := by
  rcases hf with hf | rfl
  · exact mailSide_of_protocolSide (protocolSide_commit hf v s)
  · rcases commit_eq s .producerFlip v with h | h | h <;> rw [h] <;> rfl

/-- An admission changes neither the modes, nor what the consumer will do, nor P's hold. -/
theorem enqueued_modes (w : Word) (s : State) :
    (enqueued w s).turns = s.turns ∧ (enqueued w s).soundEnabled = s.soundEnabled ∧ (enqueued w s).muted = s.muted
      ∧ (enqueued w s).accurateSync = s.accurateSync ∧ (enqueued w s).held = s.held := by
  unfold enqueued
  split
  · exact ⟨rfl, rfl, rfl, rfl, rfl⟩
  · split <;> exact ⟨rfl, rfl, rfl, rfl, rfl⟩

theorem delivered_modes (w : Word) (s : State) :
    (delivered w s).turns = s.turns ∧ (delivered w s).soundEnabled = s.soundEnabled ∧ (delivered w s).muted = s.muted
      ∧ (delivered w s).accurateSync = s.accurateSync ∧ (delivered w s).held = s.held := by
  unfold delivered
  split
  · exact enqueued_modes w s
  · exact ⟨rfl, rfl, rfl, rfl, rfl⟩

theorem enqueued_calm (w : Word) {s : State} (h : s.Calm) : (enqueued w s).Calm := by
  obtain ⟨hturns, hsound, hmuted, hsync, hheld⟩ := enqueued_modes w s
  simp only [State.Calm, State.Silent, State.NeverHolds, State.Audible, hturns, hsound, hmuted, hsync, hheld]
  exact h

theorem delivered_calm (w : Word) {s : State} (h : s.Calm) : (delivered w s).Calm := by
  unfold delivered
  split
  · exact enqueued_calm w h
  · exact h

theorem deliveredAll_calm (ws : List Word) {s : State} (h : s.Calm) : (deliveredAll ws s).Calm := by
  induction ws generalizing s with
  | nil => exact h
  | cons w ws ih => exact ih (delivered_calm w h)

/-- Calm is seen on the mail side. -/
theorem calm_of_mailSide {s t : State} (h : mailSide t = mailSide s) (hs : s.Calm) : t.Calm := by
  have hproj {α : Type} (f : State → α) : f (mailSide t) = f (mailSide s) := congrArg f h
  obtain ⟨hsilent, hnever, hheld⟩ := hs
  refine ⟨(hproj State.turns).trans hsilent, fun ha => ?_, (hproj State.held).trans hheld⟩
  refine Eq.trans (hproj State.accurateSync) (hnever ⟨?_, ?_⟩)
  · exact Eq.trans (hproj State.soundEnabled).symm ha.1
  · exact Eq.trans (hproj State.muted).symm ha.2

theorem mailSide_diag (c : DiagCode) (s : State) : mailSide (diag c s) = mailSide (diag c (mailSide s)) := by
  simp only [mailSide, protocolSide, diag, emit, List.filter_append, List.filter_filter, Bool.and_self]

theorem mailSide_enqueued (w : Word) (s : State) : mailSide (enqueued w s) = mailSide (enqueued w (mailSide s)) := by
  have hfull : s.cfg.dropThreshold ≤ s.outstanding.toNat
      ↔ (mailSide s).cfg.dropThreshold ≤ (mailSide s).outstanding.toNat := Iff.rfl
  have hcapacity : s.queue.length = s.cfg.queueCapacity
      ↔ (mailSide s).queue.length = (mailSide s).cfg.queueCapacity := Iff.rfl
  unfold enqueued
  simp only [← hfull, ← hcapacity]
  split
  · exact mailSide_diag _ s
  · split
    · exact mailSide_diag _ s
    · simp only [mailSide, protocolSide, admitted, List.filter_filter, Bool.and_self]
      rfl

theorem mailSide_delivered (w : Word) (s : State) :
    mailSide (delivered w s) = mailSide (delivered w (mailSide s)) := by
  by_cases ha : s.Audible
  · rw [delivered_open ha, delivered_open (s := mailSide s) ha, mailSide_enqueued]
  · rw [delivered_closed ha, delivered_closed (s := mailSide s) ha]
    simp only [mailSide, protocolSide, List.filter_filter, Bool.and_self]

/-- Deliveries from states with the same mail side leave the same mail side. -/
theorem mailSide_deliveredAll {s t : State} (h : mailSide t = mailSide s) (ws : List Word) :
    mailSide (deliveredAll ws t) = mailSide (deliveredAll ws s) := by
  induction ws generalizing s t with
  | nil => exact h
  | cons w ws ih => exact ih (by rw [mailSide_delivered w t, mailSide_delivered w s, h])

/-! ### What the statements say of deliveries -/

theorem enqueueAll_delivered (ws : List Word) {s : State} (hs : s.Silent) (ha : s.Audible) :
    enqueueAll ws s = .next (deliveredAll ws s) := by
  induction ws generalizing s with
  | nil => rfl
  | cons w ws ih =>
    have hone : enqueue w s = .next (delivered w s) := by rw [delivered_open ha]; exact enqueue_silent w hs
    obtain ⟨hturns, hsound, hmuted, _, _⟩ := delivered_modes w s
    rw [enqueueAll, hone, andThen_next, ih (hturns.trans hs) ⟨hsound.trans ha.1, hmuted.trans ha.2⟩]
    rfl

theorem deliveredAll_closed (ws : List Word) {s : State} (ha : ¬s.Audible) : deliveredAll ws s = s := by
  induction ws with
  | nil => rfl
  | cons w ws ih => rw [deliveredAll, List.foldl_cons, delivered_closed ha]; exact ih

/-- A state with the mail side that deliveries leave is one that they were made in. -/
theorem sendsAll_of_mailSide {ws : List Word} {s t : State} (hs : s.Silent)
    (h : mailSide t = mailSide (deliveredAll ws s)) : SendsAll ws s t := by
  have hproj {α : Type} (f : State → α) : f (mailSide t) = f (mailSide (deliveredAll ws s)) := congrArg f h
  refine ⟨fun hbest => ⟨deliveredAll ws s, enqueueAll_delivered ws hs hbest.1, hproj State.queue,
    hproj fun u => u.rsb.message, hproj fun u => u.rsb.sentCount, hproj State.diagCount, hproj State.held,
    hproj State.events⟩, fun ha => ?_⟩
  rw [deliveredAll_closed ws ha] at hproj
  exact ⟨hproj State.queue, hproj fun u => u.rsb.message, hproj fun u => u.rsb.sentCount, hproj State.diagCount,
    hproj State.held⟩

end Sys2Proof.Machine
end

section
/-! The writes of the bulk pass (R181), none of them a trigger: what each makes of the records, and what it sends. -/

namespace Sys2Proof.Machine

/-! ### The part of the state that the bulk pass rebuilds -/

/-- The state with only that left which a `WRITE` makes of the records and reads for it: the configuration, the records,
the two global bytes, the master bit and the two byte memories. -/
def records (s : State) : State :=
  { State.reset with
    cfg := s.cfg, ch0 := s.ch0, ch1 := s.ch1, ch2 := s.ch2, ch3 := s.ch3, masterEnable := s.masterEnable
    masterVolume := s.masterVolume, routing := s.routing, sampleBuf := s.sampleBuf, io := s.io }

theorem records_of_recordSide {s t : State} (h : recordSide t = recordSide s) : records t = records s :=
  congrArg records (a₁ := recordSide t) (a₂ := recordSide s) h

@[simp] theorem records_commit (f : Field) (v : Word) (s : State) : records (commit f v s) = records s := by
  simp [records]

theorem records_eq_of_channels {s t : State} (h : ChannelsKept s t) (hr : restSide t = restSide s) :
    records t = records s := by
  obtain ⟨h0, h1, h2, h3⟩ := h
  simp only [records, h0, h1, h2, h3, restSide_cfg hr, restSide_masterEnable hr, restSide_masterVolume hr,
    restSide_routing hr, restSide_sampleBuf hr, restSide_io hr]

/-- The commits and the reports of a channel write leave the records as the body and its trigger made them (R121). -/
theorem records_channelUpdate {c : Chan} {body : State → State × Bool} (hb : RegisterBody c body) (on : Bool)
    (s : State) : records (channelUpdate c on (body s)) = records (localUpdate c (body s)) :=
  records_eq_of_channels (channelUpdate_records c on (body s))
    ((channelUpdate_rest hb on s).trans (localUpdate_rest hb s).symm)

/-- The lines of ROUTING leave the records as its assignments made them (R172). -/
theorem records_routingUpdate (d : Byte) (s : State) : records (routingUpdate d s) = records (routed d s) := by
  have hledger := routingUpdate_ledger d s
  obtain ⟨h0, h1, h2, h3⟩ := ledger_channels hledger
  obtain ⟨⟨hcfg, hmaster, _, _, _, _, _, hbuf, hio, _⟩, hvolume, _, _, _, hbyte⟩ := routingUpdate_rest d s
  simp only [records, h0, h1, h2, h3, hcfg, hmaster, hvolume, hbyte, hbuf, hio]
  rfl

/-! ### The write of one register -/

/-- What a `WRITE` without a trigger makes of the records (R122 to R129, R150, R152, R160, R170, R172, R231). -/
def loaded (i : Instr) (s : State) : State :=
  match i with
  | .writeSweep1 d => (bodySweep1 d s).1
  | .writeLenduty1 d => (bodyLenduty1 d s).1
  | .writeEnv1 d => (bodyEnv1 d s).1
  | .writeFreqlo1 d => (bodyFreqlo1 d s).1
  | .writeFreqhi1 d => (bodyFreqhi1 d s).1
  | .writeLenduty2 d => (bodyLenduty2 d s).1
  | .writeEnv2 d => (bodyEnv2 d s).1
  | .writeFreqlo2 d => (bodyFreqlo2 d s).1
  | .writeFreqhi2 d => (bodyFreqhi2 d s).1
  | .writeDacen3 d => (bodyDacen3 d s).1
  | .writeLen3 d => (bodyLen3 d s).1
  | .writeLevel3 d => (bodyLevel3 d s).1
  | .writeFreqlo3 d => (bodyFreqlo3 d s).1
  | .writeFreqhi3 d => (bodyFreqhi3 d s).1
  | .writeLen4 d => (bodyLen4 d s).1
  | .writeEnv4 d => (bodyEnv4 d s).1
  | .writePoly4 d => (bodyPoly4 d s).1
  | .writeTrig4 d => (bodyTrig4 d s).1
  | .writeMastervol d => { s with masterVolume := d }
  | .writeRouting d => routed d s
  | .writeWave j d => { s with sampleBuf := convertSample s.cfg j.toNat d s.sampleBuf }
  | _ => s

/-- What a `WRITE` without a trigger sends (R121, R170, R172, R183). -/
def loadWords (i : Instr) (s : State) : List Word :=
  match i with
  | .writeLenduty1 d => updateIf (d.extractLsb' 6 2 ≠ s.ch0.duty) .c0
  | .writeFreqlo1 d => updateIf (lowReplaced s.ch0.freq d ≠ s.ch0.freq) .c0
  | .writeFreqhi1 d => updateIf (highReplaced s.ch0.freq d ≠ s.ch0.freq) .c0
  | .writeLenduty2 d => updateIf (d.extractLsb' 6 2 ≠ s.ch1.duty) .c1
  | .writeFreqlo2 d => updateIf (lowReplaced s.ch1.freq d ≠ s.ch1.freq) .c1
  | .writeFreqhi2 d => updateIf (highReplaced s.ch1.freq d ≠ s.ch1.freq) .c1
  | .writeDacen3 d => updateIf (s.ch2.voice.on && !d.getLsbD 7) .c2
  | .writeLevel3 d => updateIf (d.extractLsb' 5 2 ≠ s.ch2.vol) .c2
  | .writeFreqlo3 d => updateIf (lowReplaced s.ch2.freq d ≠ s.ch2.freq) .c2
  | .writeFreqhi3 d => updateIf (highReplaced s.ch2.freq d ≠ s.ch2.freq) .c2
  | .writePoly4 d => updateIf (d ≠ s.ch3.freq) .c3
  | .writeMastervol _ => [messageWord .masterVolume .all]
  | .writeRouting _ => [messageWord .update .all]
  | _ => []

/-- A write looks at the records only. -/
theorem records_loaded (i : Instr) (s : State) : records (loaded i s) = records (loaded i (records s)) := by
  cases i <;> rfl

theorem loadWords_records (i : Instr) (s : State) : loadWords i s = loadWords i (records s) := by cases i <;> rfl

theorem RegisterWrite.loaded {i : Instr} {c : Chan} {body : State → State × Bool} (h : RegisterWrite i c body)
    (s : State) : loaded i s = (body s).1 := by cases h <;> rfl

/-! ### What a channel write sends -/

/-- The messages of a channel write (R121). -/
def writeWords (c : Chan) (body : State → State × Bool) (s : State) : List Word :=
  if (body s).2 then [messageWord .start (.one c)]
  else updateIf ((localUpdate c (body s)).params c ≠ s.params c) c

/-- A channel write is its update and the delivery of its message (R121). -/
theorem channelWrite_delivered {c : Chan} {body : State → State × Bool} (hb : RegisterBody c body) {s : State}
    (hs : s.Calm) :
    channelWrite c body s
      = .next (deliveredAll (writeWords c body s) (channelUpdate c (s.voice c).on (body s))) := by
  have hside := mailSide_of_protocolSide (restSide_protocolSide (channelUpdate_rest hb (s.voice c).on s))
  obtain ⟨hsilent, hnever, _⟩ := calm_of_mailSide hside hs
  unfold channelWrite writeWords
  dsimp only
  rw [channelUpdate_params]
  by_cases htrig : (body s).2 = true
  · rw [if_pos htrig, if_pos htrig]
    exact send_delivered _ _ hsilent hnever
  rw [if_neg htrig, if_neg htrig]
  by_cases hchanged : (localUpdate c (body s)).params c ≠ s.params c
  · rw [if_pos hchanged, updateIf, if_pos (decide_eq_true hchanged)]
    exact send_delivered _ _ hsilent hnever
  · rw [if_neg hchanged, updateIf, if_neg (by simpa using hchanged)]
    rfl

/-- A channel write as the mail side and the records see it. -/
theorem channelWrite_calm {c : Chan} {body : State → State × Bool} (hb : RegisterBody c body) {s t : State}
    (hs : s.Calm) (h : channelWrite c body s = .next t) :
    mailSide t = mailSide (deliveredAll (writeWords c body s) s) ∧ records t = records (localUpdate c (body s)) := by
  refine ⟨?_, (records_of_recordSide (channelWrite_next h)).trans (records_channelUpdate hb _ s)⟩
  cases (channelWrite_delivered hb hs).symm.trans h
  exact mailSide_deliveredAll
    (mailSide_of_protocolSide (restSide_protocolSide (channelUpdate_rest hb (s.voice c).on s))) _

theorem updateIf_congr {p q : Prop} [Decidable p] [Decidable q] (h : p ↔ q) (c : Chan) :
    updateIf p c = updateIf q c := by rw [decide_eq_decide.mpr h]

theorem updateIf_same {α : Type} [DecidableEq α] (x : α) (c : Chan) : updateIf (x ≠ x) c = [] := by simp [updateIf]

/-- Of the compared values each body writes one or none, so that the comparison of R121 is that of the written value. -/
theorem RegisterWrite.loadWords {i : Instr} {c : Chan} {body : State → State × Bool} (h : RegisterWrite i c body)
    {s : State} (htrig : admitsTrigger i s = false) : writeWords c body s = loadWords i s := by
  have hbody : (body s).2 = false := (h.trigger s).trans htrig
  have hlocal : localUpdate c (body s) = (body s).1 := by simp [localUpdate, hbody]
  rw [writeWords, hbody, if_neg Bool.false_ne_true, hlocal]
  cases h
  case lenduty1 | lenduty2 => exact updateIf_congr (params_ne_iff_duty (by decide)) _
  case freqlo1 | freqlo2 | freqlo3 =>
    simp only [Machine.loadWords, lowReplaced_eq]
    exact updateIf_congr (params_ne_iff_freq (by decide)) _
  case freqhi1 | freqhi2 | freqhi3 =>
    simp only [Machine.loadWords, highReplaced_eq]
    exact updateIf_congr (params_ne_iff_freq (by decide)) _
  case level3 => exact updateIf_congr (params_ne_iff_vol (by decide)) _
  case poly4 => exact updateIf_congr (params_ne_iff_freq (by decide)) _
  case dacen3 d =>
    refine (updateIf_congr params_ne_iff_off _).trans (congrArg (updateIf · _) ?_)
    simp [dacOf]
  case sweep1 | env1 | env2 | len3 | len4 | env4 | trig4 => exact updateIf_same _ _

/-! ### A dispatch without a trigger -/

theorem dispatch_calm {a d : Byte} {s : State} (hs : s.Calm) (htrig : admitsTrigger (dispatched a d) s = false) :
    ∃ t, dispatch a d s = .next t ∧ mailSide t = mailSide (deliveredAll (loadWords (dispatched a d) s) s)
      ∧ records t = records (loaded (dispatched a d) s) := by
  have register {i : Instr} {c : Chan} {body : State → State × Bool} (h : RegisterWrite i c body)
      (ht : admitsTrigger i s = false) : ∃ t, channelWrite c body s = .next t
        ∧ mailSide t = mailSide (deliveredAll (loadWords i s) s) ∧ records t = records (loaded i s) := by
    have hlocal : localUpdate c (body s) = (body s).1 := by simp [localUpdate, h.trigger, ht]
    have hwrite := channelWrite_delivered h.registerBody hs
    obtain ⟨hmail, hrecords⟩ := channelWrite_calm h.registerBody hs hwrite
    exact ⟨_, hwrite, h.loadWords ht ▸ hmail, by rw [hrecords, hlocal, h.loaded]⟩
  have global {k : MsgKind} {u : State} (hu : protocolSide u = protocolSide s) :
      ∃ t, send k .all u = .next t ∧ mailSide t = mailSide (deliveredAll [messageWord k .all] s)
        ∧ records t = records u := by
    have hmail := mailSide_of_protocolSide hu
    obtain ⟨hsilent, hnever, _⟩ := calm_of_mailSide hmail hs
    have hsend := send_delivered k .all hsilent hnever
    exact ⟨_, hsend, mailSide_deliveredAll hmail [messageWord k .all], records_of_recordSide (send_recordSide hsend)⟩
  unfold dispatch
  unfold dispatched at htrig ⊢
  generalize decodeWrite (a.extractLsb' 4 4) (a.extractLsb' 0 4) d = i at htrig ⊢
  cases i with
  | writeSweep1 _ | writeLenduty1 _ | writeEnv1 _ | writeFreqlo1 _ | writeFreqhi1 _ | writeLenduty2 _ | writeEnv2 _
  | writeFreqlo2 _ | writeFreqhi2 _ | writeDacen3 _ | writeLen3 _ | writeLevel3 _ | writeFreqlo3 _ | writeFreqhi3 _
  | writeLen4 _ | writeEnv4 _ | writePoly4 _ | writeTrig4 _ => exact register (by constructor) htrig
  | writeMastervol d =>
    obtain ⟨t, ht, hmail, hrecords⟩ := global (k := .masterVolume) (mastervolUpdate_protocolSide d s)
    exact ⟨t, ht, hmail, hrecords.trans (records_commit ..)⟩
  | writeRouting d =>
    obtain ⟨t, ht, hmail, hrecords⟩ := global (k := .update) (routingUpdate_protocolSide d s)
    exact ⟨t, ht, hmail, hrecords.trans (records_routingUpdate d s)⟩
  | writeWave j d => exact ⟨_, rfl, rfl, rfl⟩
  | _ => exact ⟨s, rfl, rfl, rfl⟩

end Sys2Proof.Machine
end

section
/-! What the passes of a resync make of the records (R180 to R182), from the stored bytes to the terms of the statements. -/

namespace Sys2Proof.Machine

/-! ### The stored bytes -/

theorem lenEnableOf_withoutTrigger (d : Byte) : lenEnableOf (withoutTrigger d) = d.getLsbD 6 := by
  simp [lenEnableOf, withoutTrigger]

theorem lenEnableOf_withTrigger (d : Byte) : lenEnableOf (withTrigger d) = d.getLsbD 6 := by
  simp [lenEnableOf, withTrigger]

theorem triggerOf_withTrigger (d : Byte) : triggerOf (withTrigger d) = true := by simp [triggerOf, withTrigger]

theorem freqHighOf_withoutTrigger (d : Byte) : freqHighOf (withoutTrigger d) = freqHighOf d := by
  refine BitVec.eq_of_getLsbD_eq fun k hk => ?_
  interval_cases k <;> simp [freqHighOf, withoutTrigger]

theorem freqHighOf_withTrigger (d : Byte) : freqHighOf (withTrigger d) = freqHighOf d := by
  refine BitVec.eq_of_getLsbD_eq fun k hk => ?_
  interval_cases k <;> simp [freqHighOf, withTrigger]

/-- The high byte's bit 7 is none of the frequency's (R97). -/
theorem highReplaced_withoutTrigger (f : BitVec 12) (d : Byte) :
    highReplaced f (withoutTrigger d) = highReplaced f d := by
  simp only [highReplaced_eq, withFreqHigh, freqHighOf_withoutTrigger]

theorem highReplaced_withTrigger (f : BitVec 12) (d : Byte) : highReplaced f (withTrigger d) = highReplaced f d := by
  simp only [highReplaced_eq, withFreqHigh, freqHighOf_withTrigger]

/-- A low and then a high byte replace every bit (R124, R125). -/
theorem highReplaced_lowReplaced (f : BitVec 12) (lo hi : Byte) :
    highReplaced (lowReplaced f lo) hi = loadedFreq lo hi := by
  have hlo := lo.isLt
  simp only [highReplaced, lowReplaced, loadedFreq, BitVec.toNat_ofNat]
  congr 1
  omega

/-- The high byte written again changes nothing (R182). -/
theorem highReplaced_loadedFreq (lo hi : Byte) : highReplaced (loadedFreq lo hi) hi = loadedFreq lo hi := by
  have hlo := lo.isLt
  simp only [highReplaced, loadedFreq, BitVec.toNat_ofNat]
  congr 1
  omega

theorem withFreq_loaded (f : BitVec 12) (lo hi : Byte) :
    withFreqHigh (withFreqLow f lo) (withoutTrigger hi) = loadedFreq lo hi := by
  rw [← lowReplaced_eq, ← highReplaced_eq, highReplaced_withoutTrigger, highReplaced_lowReplaced]

theorem withFreqHigh_reloaded (lo hi : Byte) :
    withFreqHigh (loadedFreq lo hi) (withTrigger hi) = loadedFreq lo hi := by
  rw [← highReplaced_eq, highReplaced_withTrigger, highReplaced_loadedFreq]

/-! ### The writes of the bulk pass -/

/-- The records after the writes `is`, none of them a trigger. -/
def loadedAll (is : List Instr) (s : State) : State := is.foldl (fun u i => loaded i u) s

/-- The messages of the writes `is`, none of them a trigger. -/
def loadWordsAll : List Instr → State → List Word
  | [], _ => []
  | i :: is, s => loadWords i s ++ loadWordsAll is (loaded i s)

theorem loadedAll_append (is js : List Instr) (s : State) :
    loadedAll (is ++ js) s = loadedAll js (loadedAll is s) := List.foldl_append

theorem loadWordsAll_append (is js : List Instr) (s : State) :
    loadWordsAll (is ++ js) s = loadWordsAll is s ++ loadWordsAll js (loadedAll is s) := by
  induction is generalizing s with
  | nil => rfl
  | cons i is ih =>
    rw [List.cons_append, loadWordsAll, loadWordsAll, ih, List.append_assoc]
    rfl

theorem records_loadedAll {s t : State} (h : records t = records s) (is : List Instr) :
    records (loadedAll is t) = records (loadedAll is s) := by
  induction is generalizing s t with
  | nil => exact h
  | cons i is ih => exact ih (by rw [records_loaded i t, records_loaded i s, h])

theorem loadWordsAll_records {s t : State} (h : records t = records s) (is : List Instr) :
    loadWordsAll is t = loadWordsAll is s := by
  induction is generalizing s t with
  | nil => rfl
  | cons i is ih =>
    have hnext : records (loaded i t) = records (loaded i s) := by rw [records_loaded i t, records_loaded i s, h]
    rw [loadWordsAll, loadWordsAll, loadWords_records i t, loadWords_records i s, h, ih hnext]

/-- The writes of the bulk pass to channel 0 (R181). -/
def writesCh0 (s : State) : List Instr :=
  [.writeSweep1 (s.ioByte 0x10#8), .writeLenduty1 (s.ioByte 0x11#8), .writeEnv1 (s.ioByte 0x12#8),
   .writeFreqlo1 (s.ioByte 0x13#8), .writeFreqhi1 (withoutTrigger (s.ioByte 0x14#8)),
   .writeUnmapped15 (s.ioByte 0x15#8)]

/-- The writes of the bulk pass to channel 1 (R181). -/
def writesCh1 (s : State) : List Instr :=
  [.writeLenduty2 (s.ioByte 0x16#8), .writeEnv2 (s.ioByte 0x17#8), .writeFreqlo2 (s.ioByte 0x18#8),
   .writeFreqhi2 (withoutTrigger (s.ioByte 0x19#8))]

/-- The writes of the bulk pass to channel 2 (R181). -/
def writesCh2 (s : State) : List Instr :=
  [.writeDacen3 (s.ioByte 0x1A#8), .writeLen3 (s.ioByte 0x1B#8), .writeLevel3 (s.ioByte 0x1C#8),
   .writeFreqlo3 (s.ioByte 0x1D#8), .writeFreqhi3 (withoutTrigger (s.ioByte 0x1E#8)),
   .writeUnmapped1F (s.ioByte 0x1F#8)]

/-- The writes of the bulk pass to channel 3 (R181). -/
def writesCh3 (s : State) : List Instr :=
  [.writeLen4 (s.ioByte 0x20#8), .writeEnv4 (s.ioByte 0x21#8), .writePoly4 (s.ioByte 0x22#8),
   .writeTrig4 (withoutTrigger (s.ioByte 0x23#8))]

/-- The writes of the bulk pass to the global registers, and to the unmapped addresses after them (R181, R190). -/
def writesGlobal (s : State) : List Instr :=
  [.writeMastervol (s.ioByte 0x24#8), .writeRouting (s.ioByte 0x25#8), .writeUnmapped27 (s.ioByte 0x27#8),
   .writeUnmapped28 (s.ioByte 0x28#8), .writeUnmapped29 (s.ioByte 0x29#8), .writeUnmapped2A (s.ioByte 0x2A#8),
   .writeUnmapped2B (s.ioByte 0x2B#8), .writeUnmapped2C (s.ioByte 0x2C#8), .writeUnmapped2D (s.ioByte 0x2D#8),
   .writeUnmapped2E (s.ioByte 0x2E#8), .writeUnmapped2F (s.ioByte 0x2F#8)]

/-- The writes of the bulk pass to wave RAM (R181, R231). -/
def writesWave (s : State) : List Instr :=
  (List.range 16).map fun j => .writeWave (BitVec.ofNat 4 j) (s.io.read (0x30 + j))

/-- What the bulk pass dispatches from the host storage of `s`, in order (R181). -/
def bulkWrites (s : State) : List Instr :=
  writesCh0 s ++ (writesCh1 s ++ (writesCh2 s ++ (writesCh3 s ++ (writesGlobal s ++ writesWave s))))

theorem bulkWrites_eq (s : State) : bulkAddresses.map (fun a => dispatched a (bulkByte a s)) = bulkWrites s := by
  rfl

/-! ### The records after the bulk pass -/

/-- The Sample Buffer with wave bytes 0 to `n - 1` of the host storage converted over it (R231, R234). -/
def convertedOver (cfg : Config) (io m : Memory) (n : Nat) : Memory :=
  (List.range n).foldl (fun m j => convertSample cfg j (io.read (0x30 + j)) m) m

/-- The records as a resync from `s` with the master bit `m` leaves them when the channels of `done` have had their turn of
the re-trigger pass (R180 to R182). -/
def reloaded (s : State) (m : Bool) (done : List Chan) : State :=
  { s with
    ch0 := loadedCh0 s (m && decide (.c0 ∈ done)), ch1 := loadedCh1 s (m && decide (.c1 ∈ done)), ch2 := loadedCh2 s
    ch3 := loadedCh3 s (m && decide (.c3 ∈ done)), masterEnable := m, masterVolume := s.ioByte 0x24#8
    routing := s.ioByte 0x25#8, sampleBuf := convertedOver s.cfg s.io s.sampleBuf 16 }

/-- A voice with another pan. -/
def withPan (p : BitVec 2) (v : Voice) : Voice := { v with pan := p }

section Writes

variable (s : State) {p : State} (hcfg : p.cfg = s.cfg)
include hcfg

theorem loadedAll_writesCh0 (hch : p.ch0 = s.ch0) : loadedAll (writesCh0 s) p =
    { p with ch0 := { loadedCh0 s false with voice := withPan s.ch0.voice.pan (loadedCh0 s false).voice } } := by
  simp only [writesCh0, loadedAll, List.foldl_cons, List.foldl_nil, loaded, bodySweep1, bodyLenduty1, bodyEnv1,
    bodyFreqlo1, bodyFreqhi1, reloadLength, setVoice, State.voice, State.len, lengthOf_toNat, withFreq_loaded,
    lenEnableOf_withoutTrigger, hcfg, hch]
  rfl

theorem loadedAll_writesCh1 (hch : p.ch1 = s.ch1) : loadedAll (writesCh1 s) p =
    { p with ch1 := { loadedCh1 s false with voice := withPan s.ch1.voice.pan (loadedCh1 s false).voice } } := by
  simp only [writesCh1, loadedAll, List.foldl_cons, List.foldl_nil, loaded, bodyLenduty2, bodyEnv2,
    bodyFreqlo2, bodyFreqhi2, reloadLength, setVoice, State.voice, State.len, lengthOf_toNat, withFreq_loaded,
    lenEnableOf_withoutTrigger, hcfg, hch]
  rfl

theorem loadedAll_writesCh2 (hch : p.ch2 = s.ch2) : loadedAll (writesCh2 s) p =
    { p with ch2 := { loadedCh2 s with voice := withPan s.ch2.voice.pan (loadedCh2 s).voice } } := by
  simp only [writesCh2, loadedAll, List.foldl_cons, List.foldl_nil, loaded, bodyDacen3, bodyLen3, bodyLevel3,
    bodyFreqlo3, bodyFreqhi3, reloadLength, setVoice, State.voice, State.len, withFreq_loaded,
    lenEnableOf_withoutTrigger, hcfg, hch]
  rfl

theorem loadedAll_writesCh3 (hch : p.ch3 = s.ch3) : loadedAll (writesCh3 s) p =
    { p with ch3 := { loadedCh3 s false with voice := withPan s.ch3.voice.pan (loadedCh3 s false).voice } } := by
  simp only [writesCh3, loadedAll, List.foldl_cons, List.foldl_nil, loaded, bodyLen4, bodyEnv4,
    bodyPoly4, bodyTrig4, reloadLength, setVoice, State.voice, State.len, lengthOf_toNat, lenEnableOf_withoutTrigger,
    hcfg, hch]
  rfl

theorem loadedAll_writesWave : loadedAll (writesWave s) p =
    { p with sampleBuf := convertedOver s.cfg s.io p.sampleBuf 16 } := by
  have bytes (js : List Nat) (hjs : ∀ j ∈ js, j < 16) {p : State} (hcfg : p.cfg = s.cfg) :
      loadedAll (js.map fun j => .writeWave (BitVec.ofNat 4 j) (s.io.read (0x30 + j))) p
        = { p with
            sampleBuf := js.foldl (fun m j => convertSample s.cfg j (s.io.read (0x30 + j)) m) p.sampleBuf } := by
    induction js generalizing p with
    | nil => rfl
    | cons j js ih =>
      have hj : (BitVec.ofNat 4 j).toNat = j := Nat.mod_eq_of_lt (hjs j List.mem_cons_self)
      have hnext := ih (fun k hk => hjs k (List.mem_cons_of_mem _ hk))
        (p := { p with sampleBuf := convertSample s.cfg j (s.io.read (0x30 + j)) p.sampleBuf }) hcfg
      have hone : loaded (.writeWave (BitVec.ofNat 4 j) (s.io.read (0x30 + j))) p
          = { p with sampleBuf := convertSample s.cfg j (s.io.read (0x30 + j)) p.sampleBuf } := by
        simp only [loaded, hj, hcfg]
      rw [List.map_cons, loadedAll, List.foldl_cons, hone]
      exact hnext
  exact bytes _ (fun j hj => List.mem_range.mp hj) hcfg

end Writes

theorem loadedAll_writesGlobal (s p : State) :
    loadedAll (writesGlobal s) p = routed (s.ioByte 0x25#8) { p with masterVolume := s.ioByte 0x24#8 } := by
  rfl

/-- The bulk pass leaves the records as the host storage gives them, and no channel restarted (R181). -/
theorem records_bulkWrites (s : State) (m : Bool) :
    records (loadedAll (bulkWrites s) { s with masterEnable := m }) = records (reloaded s m []) := by
  simp only [bulkWrites, loadedAll_append, loadedAll_writesCh0, loadedAll_writesCh1, loadedAll_writesCh2,
    loadedAll_writesCh3, loadedAll_writesGlobal, routed, loadedAll_writesWave]
  simp [records, reloaded, withPan, loadedCh0, loadedCh1, loadedCh2, loadedCh3]

/-! ### The messages of the bulk pass -/

theorem updateIf_lowReplaced (i : Chan) (f : BitVec 12) (lo hi : Byte) :
    updateIf (lowReplaced f lo ≠ f) i
      ++ updateIf (highReplaced (withFreqLow f lo) (withoutTrigger hi) ≠ withFreqLow f lo) i = freqMessages i f lo hi := by
  rw [← lowReplaced_eq, highReplaced_withoutTrigger]
  rfl

section Words

variable (s : State) {p : State}

theorem loadWordsAll_writesCh0 (hch : p.ch0 = s.ch0) : loadWordsAll (writesCh0 s) p =
    updateIf ((s.ioByte 0x11#8).extractLsb' 6 2 ≠ s.ch0.duty) .c0
      ++ freqMessages .c0 s.ch0.freq (s.ioByte 0x13#8) (s.ioByte 0x14#8) := by
  rw [← updateIf_lowReplaced, ← hch]
  simp only [writesCh0, loadWordsAll, loadWords, List.nil_append, List.append_nil]
  rfl

theorem loadWordsAll_writesCh1 (hch : p.ch1 = s.ch1) : loadWordsAll (writesCh1 s) p =
    updateIf ((s.ioByte 0x16#8).extractLsb' 6 2 ≠ s.ch1.duty) .c1
      ++ freqMessages .c1 s.ch1.freq (s.ioByte 0x18#8) (s.ioByte 0x19#8) := by
  rw [← updateIf_lowReplaced, ← hch]
  simp only [writesCh1, loadWordsAll, loadWords, List.nil_append, List.append_nil]
  rfl

theorem loadWordsAll_writesCh2 (hch : p.ch2 = s.ch2) : loadWordsAll (writesCh2 s) p =
    updateIf (s.ch2.voice.on && !(s.ioByte 0x1A#8).getLsbD 7) .c2
      ++ (updateIf ((s.ioByte 0x1C#8).extractLsb' 5 2 ≠ s.ch2.vol) .c2
        ++ freqMessages .c2 s.ch2.freq (s.ioByte 0x1D#8) (s.ioByte 0x1E#8)) := by
  rw [← updateIf_lowReplaced, ← hch]
  simp only [writesCh2, loadWordsAll, loadWords, List.nil_append, List.append_nil]
  rfl

theorem loadWordsAll_writesCh3 (hch : p.ch3 = s.ch3) : loadWordsAll (writesCh3 s) p =
    updateIf (s.ioByte 0x22#8 ≠ s.ch3.freq) .c3 := by
  rw [← hch]
  exact List.append_nil _

theorem loadWordsAll_writesWave : loadWordsAll (writesWave s) p = [] := by rfl

end Words

/-- The messages of the bulk pass, in order (R183): those of a resync that restarts nothing. -/
theorem loadWordsAll_bulkWrites (s : State) (m : Bool) :
    loadWordsAll (bulkWrites s) { s with masterEnable := m } = resyncMessages false s := by
  have hglobal (p : State) : loadWordsAll (writesGlobal s) p
      = [messageWord .masterVolume .all, messageWord .update .all] := rfl
  simp only [bulkWrites, loadWordsAll_append, loadedAll_writesCh0, loadedAll_writesCh1, loadedAll_writesCh2,
    loadedAll_writesCh3, loadWordsAll_writesCh0, loadWordsAll_writesCh1, loadWordsAll_writesCh2,
    loadWordsAll_writesCh3, hglobal, loadWordsAll_writesWave]
  simp [resyncMessages, startIf]

end Sys2Proof.Machine
end

section
/-! The re-trigger pass (R182): one channel's turn, on the records and on the on-mask. -/

namespace Sys2Proof.Machine

/-! ### A channel write sees the records only -/

theorem voice_records (s : State) (c : Chan) : (records s).voice c = s.voice c := by cases c <;> rfl

theorem params_records (s : State) (c : Chan) : (records s).params c = s.params c := by cases c <;> rfl

theorem records_triggerLocal (c : Chan) (s : State) :
    records (triggerLocal c s) = records (triggerLocal c (records s)) := by cases c <;> rfl

theorem RegisterBody.records {c : Chan} {body : State → State × Bool} (hb : RegisterBody c body) (s : State) :
    records (body s).1 = records (body (records s)).1 ∧ (body s).2 = (body (records s)).2 := by
  cases hb <;> exact ⟨rfl, rfl⟩

section Records

variable {c : Chan} {body : State → State × Bool} (hb : RegisterBody c body) {s t : State} (h : records t = records s)
include hb h

theorem records_localUpdate : records (localUpdate c (body t)) = records (localUpdate c (body s)) := by
  obtain ⟨ht, httrig⟩ := hb.records t
  obtain ⟨hs, hstrig⟩ := hb.records s
  have hbody : records (body t).1 = records (body s).1 := by rw [ht, hs, h]
  unfold localUpdate
  rw [httrig, hstrig, h]
  split
  · rw [records_triggerLocal, hbody, ← records_triggerLocal]
  · exact hbody

theorem writeWords_records : writeWords c body t = writeWords c body s := by
  have hlocal := records_localUpdate hb h
  have htrig : (body t).2 = (body s).2 := by rw [(hb.records t).2, (hb.records s).2, h]
  unfold writeWords
  rw [htrig, ← params_records t, ← params_records s, ← params_records (localUpdate c (body t)),
    ← params_records (localUpdate c (body s)), hlocal, h]

end Records

/-! ### The write of a turn -/

/-- The body of a channel's trigger register (R108). -/
def trigBody (c : Chan) (d : Byte) : State → State × Bool :=
  match c with
  | .c0 => bodyFreqhi1 d
  | .c1 => bodyFreqhi2 d
  | .c2 => bodyFreqhi3 d
  | .c3 => bodyTrig4 d

theorem trigBody_register (c : Chan) (d : Byte) : RegisterBody c (trigBody c d) := by cases c <;> constructor

theorem dispatch_trigReg (c : Chan) (d : Byte) (s : State) :
    dispatch (trigReg c) d s = channelWrite c (trigBody c d) s := by cases c <;> rfl

/-- The byte of a turn: the stored one with its trigger bit (R182). -/
def restartByte (c : Chan) (s : State) : Byte := withTrigger (s.ioByte (trigReg c))

/-- Is channel `c` on after the bulk pass? It was on, and channel 2 has its stored DAC bit (R150, R181). -/
def staysOn (c : Chan) (s : State) : Bool := (s.voice c).on && (decide (c ≠ .c2) || (s.ioByte 0x1A#8).getLsbD 7)

theorem reloaded_on (s : State) (m : Bool) (done : List Chan) (c : Chan) :
    ((reloaded s m done).voice c).on = staysOn c s := by
  cases c <;> simp [staysOn, reloaded, State.voice, loadedCh0, loadedCh1, loadedCh2, loadedCh3]

/-- The gate of R145, met by every channel but a wave channel whose stored DAC bit is 0. -/
theorem trigBody_trigger (c : Chan) (s : State) (m : Bool) (done : List Chan) :
    (trigBody c (restartByte c s) (reloaded s m done)).2 = (decide (c ≠ .c2) || (s.ioByte 0x1A#8).getLsbD 7) := by
  cases c <;> simp [trigBody, restartByte, bodyFreqhi1, bodyFreqhi2, bodyFreqhi3, bodyTrig4, triggerOf_withTrigger,
    reloaded, loadedCh2]

/-! ### The record of a turn -/

theorem sweepTime_toNat (d : Byte) : (d.extractLsb' 4 3).toNat = d.toNat / 16 % 8 := by
  simp [BitVec.extractLsb'_toNat, Nat.shiftRight_eq_div_pow]

theorem lengthData_toNat (d : Byte) : (d.extractLsb' 0 6).toNat = d.toNat % 64 := lengthOf_toNat d

/-- A trigger loads the envelope as the stored `ENV` byte gives it (R142). -/
theorem loadedEnvelope_trigger (cfg : Config) (d : Byte) (b : Bool) (e : Envelope) :
    ({ loadedEnvelope cfg d b e with
        vol := (loadedEnvelope cfg d b e).init
        counter := envReload cfg (loadedEnvelope cfg d b e).period } : Envelope) = loadedEnvelope cfg d true e := by
  simp [loadedEnvelope, envReload]

/-- A turn of a channel that does not restart leaves its record (R182). -/
theorem reloaded_cons_of_not {s : State} {m : Bool} {c : Chan} (h : (m && (s.voice c).on) = false)
    (done : List Chan) : reloaded s m (c :: done) = reloaded s m done := by
  rw [Bool.and_eq_false_iff] at h
  rcases h with rfl | hoff
  · rfl
  · cases c <;> simp only [State.voice] at hoff <;>
      simp [reloaded, loadedCh0, loadedCh1, loadedCh3, hoff]

/-- A turn of a channel that was on leaves its record as the trigger of R140 loads it, or with the gate closed as it is. -/
theorem records_restart {s : State} {c : Chan} (hon : (s.voice c).on = true) (done : List Chan) :
    records (localUpdate c (trigBody c (restartByte c s) (reloaded s true done)))
      = records (reloaded s true (c :: done)) := by
  have hgate := trigBody_trigger c s true done
  unfold localUpdate
  rw [hgate]
  cases c with
  | c0 =>
    have hon : s.ch0.voice.on = true := hon
    simp [records, reloaded, trigBody, restartByte, trigReg, bodyFreqhi1, triggerLocal, triggerSweep,
      triggerEnvelope, reloadLength, setOn, setVoice, setEnv, State.voice, State.env, State.len, loadedCh0, hon,
      lenEnableOf_withTrigger, withFreqHigh_reloaded, loadedEnvelope_trigger, triggerSweepCounter_eq, sweepTime_toNat,
      lengthData_toNat, -BitVec.extractLsb'_toNat]
    rfl
  | c1 =>
    have hon : s.ch1.voice.on = true := hon
    simp [records, reloaded, trigBody, restartByte, trigReg, bodyFreqhi2, triggerLocal, triggerSweep,
      triggerEnvelope, reloadLength, setOn, setVoice, setEnv, State.voice, State.env, State.len, loadedCh1, hon,
      lenEnableOf_withTrigger, withFreqHigh_reloaded, loadedEnvelope_trigger]
    rfl
  | c2 =>
    have hon : s.ch2.voice.on = true := hon
    cases hdac : (s.ioByte 0x1A#8).getLsbD 7 with
    | false =>
      simp [records, reloaded, trigBody, restartByte, trigReg, bodyFreqhi3, loadedCh2, lenEnableOf_withTrigger,
        withFreqHigh_reloaded]
    | true =>
      simp [records, reloaded, trigBody, restartByte, trigReg, bodyFreqhi3, triggerLocal, triggerSweep,
        triggerEnvelope, reloadLength, setOn, setVoice, State.voice, State.env, State.len, loadedCh2, hon, hdac,
        lenEnableOf_withTrigger, withFreqHigh_reloaded]
      rfl
  | c3 =>
    have hon : s.ch3.voice.on = true := hon
    simp [records, reloaded, trigBody, restartByte, trigReg, bodyTrig4, triggerLocal, triggerSweep, triggerEnvelope,
      reloadLength, setOn, setVoice, setEnv, State.voice, State.env, State.len, loadedCh3, hon,
      lenEnableOf_withTrigger, loadedEnvelope_trigger]
    rfl

/-- A turn of a channel that was on sends `Start` when the channel restarts, and nothing when its gate is closed (R183). -/
theorem writeWords_restart {s : State} {c : Chan} (hon : (s.voice c).on = true) (done : List Chan) :
    writeWords c (trigBody c (restartByte c s)) (reloaded s true done) = startIf (staysOn c s) c := by
  have hgate := trigBody_trigger c s true done
  have hstays : staysOn c s = (decide (c ≠ .c2) || (s.ioByte 0x1A#8).getLsbD 7) := by rw [staysOn, hon, Bool.true_and]
  rw [← hstays] at hgate
  unfold writeWords startIf
  rw [hgate]
  cases hs : staysOn c s with
  | true => rfl
  | false =>
    obtain rfl : c = .c2 := by
      by_contra hc
      simp [hstays, hc] at hs
    have hsame : (localUpdate .c2 (trigBody .c2 (restartByte .c2 s) (reloaded s true done))).params .c2
        = (reloaded s true done).params .c2 := by
      rw [← params_records, records_restart hon, params_records]
      rfl
    rw [hsame]
    exact updateIf_same _ _

/-! ### A turn -/

/-- A resync from `s` with the master bit `m`, after the bulk pass and the turns of the channels of `done`: the records, and
the on-mask, whose bits are those of the channels that have restarted (R180 to R182). -/
structure Restarting (s : State) (m : Bool) (done : List Chan) (t : State) : Prop where
  records : records t = records (reloaded s m done)
  onMask  : t.soundEnabled = true → ∀ j, maskBit t.sb.onMask j = (m && decide (j ∈ done) && (t.voice j).on)

theorem Restarting.on {s : State} {m : Bool} {done : List Chan} {t : State} (h : Restarting s m done t) (c : Chan) :
    (t.voice c).on = staysOn c s := by rw [← voice_records, h.records, voice_records, reloaded_on]

/-- A turn of the re-trigger pass (R182). -/
theorem Restarting.turn {s : State} {m : Bool} {done : List Chan} {u t : State} {c : Chan}
    (hu : Restarting s m done u) (hcalm : u.Calm) (h : runTask (.retrigger c (s.voice c).on) u = .next t) :
    Restarting s m (c :: done) t
      ∧ mailSide t = mailSide (deliveredAll (startIf (m && staysOn c s) c) u) := by
  have hproj {α : Type} (f : State → α) : f (Machine.records u) = f (Machine.records (reloaded s m done)) :=
    congrArg f hu.records
  have hmaster : u.masterEnable = m := hproj State.masterEnable
  have hio : u.io = s.io := hproj State.io
  have hbyte : withTrigger (u.ioByte (trigReg c)) = restartByte c s := by rw [restartByte, State.ioByte, hio]; rfl
  simp only [runTask, hmaster, hbyte, dispatch_trigReg] at h
  cases hrestarts : m && (s.voice c).on with
  | false =>
    have hoff : (m && staysOn c s) = false := by rw [staysOn, ← Bool.and_assoc, hrestarts, Bool.false_and]
    rw [if_neg (by simp [hrestarts])] at h
    cases h
    refine ⟨⟨by rw [reloaded_cons_of_not hrestarts, hu.records], fun he j => ?_⟩, by rw [hoff]; rfl⟩
    rw [hu.onMask he j, hu.on j]
    by_cases hj : j = c
    · subst hj
      revert hoff
      cases m <;> cases staysOn j s <;> simp
    · simp [hj]
  | true =>
    rw [if_pos hrestarts] at h
    obtain ⟨rfl, hon⟩ := Bool.and_eq_true_iff.mp hrestarts
    have hb := trigBody_register c (restartByte c s)
    obtain ⟨hmail, hrecords⟩ := channelWrite_calm hb hcalm h
    rw [writeWords_records hb hu.records, writeWords_restart hon] at hmail
    have hrecords' : Machine.records t = Machine.records (reloaded s true (c :: done)) :=
      hrecords.trans ((records_localUpdate hb hu.records).trans (records_restart hon done))
    refine ⟨⟨hrecords', fun he j => ?_⟩, hmail⟩
    have hside := channelWrite_next h
    have he' : u.soundEnabled = true := by
      rw [← restSide_soundEnabled (channelUpdate_rest hb (u.voice c).on u), ← recordSide_soundEnabled hside, he]
    have hvoice (i : Chan) : (t.voice i).on = staysOn i s := by
      rw [← voice_records, hrecords', voice_records, reloaded_on]
    have htrig : (trigBody c (restartByte c s) u).2 = staysOn c s := by
      rw [(hb.records u).2, hu.records, ← (hb.records _).2, trigBody_trigger, staysOn, hon, Bool.true_and]
    rw [(recordSide_sb hside).1, channelUpdate_commits_onBit hb _ he' j, htrig, hu.onMask he' j, hu.onMask he' c,
      hu.on, hu.on, hvoice]
    by_cases hj : j = c
    · subst hj
      cases staysOn j s <;> simp
    · simp [hj]

end Sys2Proof.Machine
end

section
/-! What every dispatch of a resync keeps: the modes, the outputs, the bytes outside the committed fields (R180), and
that what has been committed stays so (R121, R170, R172). -/

namespace Sys2Proof.Machine

/-! ### The frame -/

/-- What the passes of a resync leave alone (R180 to R182). -/
structure ReplayFrame (s t : State) : Prop where
  modes     : ModesKept { s with sampleBuf := t.sampleBuf } t
  flip      : t.producerFlip = s.producerFlip
  flags     : t.sb.hyperSync = s.sb.hyperSync ∧ t.sb.producerFlip = s.sb.producerFlip
  output    : NoOutput s t
  nextEvent : t.nextEvent ≤ s.nextEvent
  blocks    : BlocksKeptOutside resyncFields s t

/-- The blocks kept first by one part and then by another. -/
theorem BlocksKeptOutside.trans {fs : List Field} {s t u : State} (hcfg : t.cfg = s.cfg)
    (hsound : t.soundEnabled = s.soundEnabled) (htarget : t.target = s.target) (h : BlocksKeptOutside fs s t)
    (h' : BlocksKeptOutside fs t u) : BlocksKeptOutside fs s u := by
  intro a hbuf hfields hprotocol
  have hbase : t.blockBase = s.blockBase := by simp only [State.blockBase, htarget, hcfg]
  exact (h' a (by rwa [hcfg]) (by rwa [hsound, hbase]) (by simpa only [inProtocolField, hcfg] using hprotocol)).trans
    (h a hbuf hfields hprotocol)

theorem ReplayFrame.refl (s : State) : ReplayFrame s s where
  modes := ⟨rfl, rfl, rfl, rfl, rfl, rfl, rfl, rfl, rfl, rfl⟩
  flip := rfl
  flags := ⟨rfl, rfl⟩
  output := rfl
  nextEvent := le_refl _
  blocks _ _ _ _ := rfl

theorem ReplayFrame.trans {s t u : State} (h : ReplayFrame s t) (h' : ReplayFrame t u) : ReplayFrame s u where
  modes := by
    have hm := h.modes
    have hm' := h'.modes
    simp only [ModesKept] at hm hm' ⊢
    simp only [hm', hm, and_self]
  flip := h'.flip.trans h.flip
  flags := ⟨h'.flags.1.trans h.flags.1, h'.flags.2.trans h.flags.2⟩
  output := Eq.trans h'.output h.output
  nextEvent := h'.nextEvent.trans h.nextEvent
  blocks := by
    obtain ⟨hcfg, _, hsound, _, htarget, _⟩ := h.modes
    exact h.blocks.trans hcfg hsound htarget h'.blocks

/-- The modes are kept besides the Sample Buffer when the Sample Buffer is kept too. -/
theorem ModesKept.besidesBuffer {s t : State} (h : ModesKept s t) : ModesKept { s with sampleBuf := t.sampleBuf } t := by
  simp only [ModesKept] at h ⊢
  simp only [h, and_self]

theorem foldl_min_le (l : List Int) (n : Int) : l.foldl min n ≤ n := by
  induction l generalizing n with
  | nil => exact le_refl n
  | cons a l ih => exact (ih (min n a)).trans (min_le_left n a)

/-- A channel write changes no committed global of the block P writes before its message. -/
theorem restSide_sb_globals {s t : State} (h : restSide t = restSide s) :
    t.sb.masterVolume = s.sb.masterVolume ∧ t.sb.routing = s.sb.routing ∧ t.sb.pan = s.sb.pan
      ∧ t.sb.hyperSync = s.sb.hyperSync ∧ t.sb.producerFlip = s.sb.producerFlip := by
  have hblock : blankParams t.sb = blankParams s.sb := by
    unfold State.sb
    rw [restSide_target h]
    cases s.target with
    | real => exact restSide_rsb h
    | dummy => exact congrArg State.dsb (a₁ := restSide t) (a₂ := restSide s) h
  have hproj {α : Type} (f : SharedBlock → α) : f (blankParams t.sb) = f (blankParams s.sb) := congrArg f hblock
  exact ⟨hproj SharedBlock.masterVolume, hproj SharedBlock.routing, hproj SharedBlock.pan, hproj SharedBlock.hyperSync,
    hproj SharedBlock.producerFlip⟩

theorem channelWrite_frame {c : Chan} {body : State → State × Bool} (hb : RegisterBody c body) {s t : State}
    (hs : s.Silent) (h : channelWrite c body s = .next t) : ReplayFrame s t := by
  have hside := channelWrite_next h
  have hrest := channelUpdate_rest hb (s.voice c).on s
  have hfields : ∀ f ∈ committedFields c, f ∈ resyncFields := by cases c <;> decide
  obtain ⟨_, _, _, hsync, hflip⟩ := recordSide_sb_globals hside
  obtain ⟨_, _, _, hsync', hflip'⟩ := restSide_sb_globals hrest
  refine ⟨((restSide_modes hrest).trans (recordSide_modes hside)).besidesBuffer,
    (recordSide_producerFlip hside).trans (restSide_producerFlip hrest), ⟨hsync.trans hsync', hflip.trans hflip'⟩,
    ?output, ?nextEvent, fun a _ ha hprotocol => ?blocks⟩
  case output => rw [NoOutput, recordSide_events hside, channelUpdate_events hb]
  case nextEvent =>
    rw [recordSide_nextEvent hside, channelUpdate_nextEvent hb]
    exact foldl_min_le _ _
  case blocks => exact channelWrite_memory hb h a (fun he f hf => ha he f (hfields f hf)) hprotocol (.inl hs)

/-- A send after commits of fields that a resync commits. -/
theorem global_frame {fs : List Field} {k : MsgKind} {c : MsgChan} {s u t : State} (hs : s.Silent)
    (hside : protocolSide u = protocolSide s) (hc : CommitsOnly fs s u) (hfields : ∀ f ∈ fs, f ∈ resyncFields)
    (hmodes : ModesKept s u) (hflip : u.producerFlip = s.producerFlip) (hnext : u.nextEvent = s.nextEvent)
    (hevents : u.events = s.events) (hflags : u.sb.hyperSync = s.sb.hyperSync ∧ u.sb.producerFlip = s.sb.producerFlip)
    (h : send k c u = .next t) : ReplayFrame s t := by
  obtain ⟨t', ht', hsent, _, hmemory⟩ := send_after_commits k c hs hside hc
  cases ht'.symm.trans h
  obtain ⟨_, _, _, hsync, hsbFlip⟩ := recordSide_sb_globals hsent
  exact ⟨(hmodes.trans (recordSide_modes hsent)).besidesBuffer, (recordSide_producerFlip hsent).trans hflip,
    ⟨hsync.trans hflags.1, hsbFlip.trans hflags.2⟩, by rw [NoOutput, recordSide_events hsent, hevents],
    le_of_eq ((recordSide_nextEvent hsent).trans hnext),
    fun a _ ha hprotocol => hmemory a (fun he f hf => ha he f (hfields f hf)) hprotocol (.inl hs)⟩

/-- The bytes outside the Sample Buffer do not depend on it. -/
theorem memByte_outsideBuffer {s : State} {a : Nat} (m : Memory)
    (ha : ¬(s.cfg.sampleBufAddr.toNat ≤ a ∧ a < s.cfg.sampleBufAddr.toNat + sampleBufSize)) :
    State.memByte { s with sampleBuf := m } a = s.memByte a := by
  simp only [State.memByte, locate, if_neg ha]
  split_ifs <;> rfl

theorem WriteRule.frame {i : Instr} {r : State → Result} (hr : WriteRule i r) {s t : State} (hs : s.Silent)
    (h : r s = .next t) : ReplayFrame s t := by
  cases hr with
  | register hw => exact channelWrite_frame hw.registerBody hs h
  | mastervol d =>
    refine global_frame hs (mastervolUpdate_protocolSide d s) (mastervolUpdate_commits d s) (by decide)
      (commit_modes _ _ { s with masterVolume := d }) (commit_producerFlip ..) (commit_nextEvent ..) (commit_events ..)
      ?_ h
    rw [mastervolUpdate_sb]
    split <;> exact ⟨rfl, rfl⟩
  | routing d =>
    obtain ⟨hmodes, _, hflip, hnext, hevents, _⟩ := routingUpdate_rest d s
    refine global_frame hs (routingUpdate_protocolSide d s) (routingUpdate_commits d s) (by decide) hmodes hflip hnext
      hevents ?_ h
    rw [routingUpdate_sb]
    split <;> exact ⟨rfl, rfl⟩
  | wave j d =>
    cases h
    exact ⟨⟨rfl, rfl, rfl, rfl, rfl, rfl, rfl, rfl, rfl, rfl⟩, rfl, ⟨rfl, rfl⟩, rfl, le_refl _,
      fun a ha _ _ => memByte_outsideBuffer _ ha⟩
  | nothing =>
    cases h
    exact .refl s

/-! ### What stays committed -/

/-- The parameters of channel `c` are committed as its record holds them (R121). -/
def ChannelCommitted (c : Chan) (t : State) : Prop :=
  t.soundEnabled = true → t.sb.vol.get c = t.vol c ∧ t.sb.freq.get c = t.freq c
    ∧ (c = .c0 ∨ c = .c1 → t.sb.duty.get c = t.duty c)

/-- The volume byte is committed (R170). -/
def VolumeCommitted (t : State) : Prop := t.soundEnabled = true → t.sb.masterVolume = t.masterVolume

/-- The routing byte and the pans are committed (R172). -/
def RoutingCommitted (t : State) : Prop :=
  t.soundEnabled = true → t.sb.routing = t.routing ∧ ∀ i, t.sb.pan.get i = (t.voice i).pan.setWidth 8

/-- No bit of the on-mask is set (R180). -/
def OnMaskClear (t : State) : Prop := t.soundEnabled = true → ∀ j, maskBit t.sb.onMask j = false

section RecordSide

variable {s t : State} (h : recordSide t = recordSide s)
include h

theorem ChannelCommitted.of_recordSide {c : Chan} (hs : ChannelCommitted c s) : ChannelCommitted c t := by
  obtain ⟨_, hvol, hfreq, hduty⟩ := recordSide_sb h
  unfold ChannelCommitted
  rw [recordSide_soundEnabled h, hvol, hfreq, hduty, recordSide_vol h, recordSide_freq h, recordSide_duty h]
  exact hs

theorem VolumeCommitted.of_recordSide (hs : VolumeCommitted s) : VolumeCommitted t := by
  unfold VolumeCommitted
  rw [recordSide_soundEnabled h, (recordSide_sb_globals h).1, recordSide_masterVolume h]
  exact hs

theorem RoutingCommitted.of_recordSide (hs : RoutingCommitted s) : RoutingCommitted t := by
  obtain ⟨_, hrouting, hpan, _⟩ := recordSide_sb_globals h
  unfold RoutingCommitted
  simp only [recordSide_soundEnabled h, hrouting, hpan, recordSide_routing h, recordSide_voice h]
  exact hs

theorem OnMaskClear.of_recordSide (hs : OnMaskClear s) : OnMaskClear t := by
  unfold OnMaskClear
  rw [recordSide_soundEnabled h, (recordSide_sb h).1]
  exact hs

end RecordSide

section Update

variable {c : Chan} {body : State → State × Bool} (hb : RegisterBody c body) (on : Bool) {s : State}
include hb

/-- A channel write commits its channel and leaves the other channels' parameters as they are (R121). -/
theorem channelUpdate_committed {j : Chan} (h : j ≠ c → ChannelCommitted j s) :
    ChannelCommitted j (channelUpdate c on (body s)) := by
  have hrest := channelUpdate_rest hb on s
  intro he
  have he' : s.soundEnabled = true := restSide_soundEnabled hrest ▸ he
  by_cases hj : j = c
  · subst hj
    exact channelUpdate_commits_params hb on he'
  · have hparams : (channelUpdate c on (body s)).params j = s.params j := by
      obtain ⟨h0, h1, h2, h3⟩ := channelUpdate_others hb on s
      cases j with
      | c0 => simp only [State.params, State.voice, State.vol, State.freq, State.duty, h0 (Ne.symm hj)]
      | c1 => simp only [State.params, State.voice, State.vol, State.freq, State.duty, h1 (Ne.symm hj)]
      | c2 => simp only [State.params, State.voice, State.vol, State.freq, State.duty, h2 (Ne.symm hj)]
      | c3 => simp only [State.params, State.voice, State.vol, State.freq, State.duty, h3 (Ne.symm hj)]
    have hvol := congrArg Params.vol hparams
    have hfreq := congrArg Params.freq hparams
    have hduty := congrArg Params.duty hparams
    simp only [State.params] at hvol hfreq hduty
    rw [hvol, hfreq, hduty, channelUpdate_sb hb on s, if_pos he']
    have hs := h hj he'
    simpa [apply_ite SharedBlock.vol, apply_ite SharedBlock.freq, apply_ite SharedBlock.duty,
      SharedBlock.put_vol_of_ne, SharedBlock.put_freq_of_ne, SharedBlock.put_duty_of_ne, PerChan.get_set, hj,
      apply_ite (PerChan.get · j)] using hs

theorem channelUpdate_volumeCommitted (h : VolumeCommitted s) : VolumeCommitted (channelUpdate c on (body s)) := by
  have hrest := channelUpdate_rest hb on s
  unfold VolumeCommitted
  rw [restSide_soundEnabled hrest, (restSide_sb_globals hrest).1, restSide_masterVolume hrest]
  exact h

theorem channelUpdate_routingCommitted (h : RoutingCommitted s) : RoutingCommitted (channelUpdate c on (body s)) := by
  have hrest := channelUpdate_rest hb on s
  obtain ⟨_, hrouting, hpan, _⟩ := restSide_sb_globals hrest
  unfold RoutingCommitted
  simp only [restSide_soundEnabled hrest, hrouting, hpan, restSide_routing hrest, channelUpdate_voice,
    localUpdate_pan hb]
  exact h

/-- A write without a trigger sets no on-bit (R121). -/
theorem channelUpdate_onMaskClear (htrig : (body s).2 = false) (h : OnMaskClear s) :
    OnMaskClear (channelUpdate c on (body s)) := by
  have hrest := channelUpdate_rest hb on s
  intro he j
  have he' : s.soundEnabled = true := restSide_soundEnabled hrest ▸ he
  rw [channelUpdate_commits_onBit hb on he' j, htrig, h he' j, h he' c]
  simp

end Update

/-- A change of other fields than the parameters' leaves them committed. -/
theorem ChannelCommitted.congr {c : Chan} {s t : State} (hsound : t.soundEnabled = s.soundEnabled)
    (hsb : t.sb.vol = s.sb.vol ∧ t.sb.freq = s.sb.freq ∧ t.sb.duty = s.sb.duty) (hparams : t.params c = s.params c)
    (h : ChannelCommitted c s) : ChannelCommitted c t := by
  obtain ⟨hvol, hfreq, hduty⟩ := hsb
  simp only [State.params, Params.mk.injEq] at hparams
  obtain ⟨_, hvol', hfreq', hduty'⟩ := hparams
  unfold ChannelCommitted
  rw [hsound, hvol, hfreq, hduty, hvol', hfreq', hduty']
  exact h

theorem mastervolUpdate_voice (d : Byte) (s : State) (c : Chan) : (mastervolUpdate d s).voice c = s.voice c := by
  cases c <;> simp [mastervolUpdate, State.voice]

theorem mastervolUpdate_params (d : Byte) (s : State) (c : Chan) : (mastervolUpdate d s).params c = s.params c := by
  cases c <;> simp [mastervolUpdate, State.params, State.voice, State.vol, State.freq, State.duty]

theorem routingUpdate_params (d : Byte) (s : State) (c : Chan) : (routingUpdate d s).params c = s.params c := by
  obtain ⟨h0, h1, h2, h3⟩ := ledger_channels (routingUpdate_ledger d s)
  cases c <;> simp only [State.params, State.voice, State.vol, State.freq, State.duty, h0, h1, h2, h3] <;> rfl

theorem mastervolUpdate_volumeCommitted (d : Byte) (s : State) : VolumeCommitted (mastervolUpdate d s) := by
  intro he
  rw [mastervolUpdate, commit_soundEnabled] at he
  rw [mastervolUpdate_sb, if_pos he, mastervolUpdate, commit_masterVolume]

theorem routingUpdate_voice (d : Byte) (s : State) (i : Chan) :
    (routingUpdate d s).voice i = { s.voice i with pan := panOf d i } :=
  (ledger_voice (routingUpdate_ledger d s) i).trans (routed_voice d s i)

theorem routingUpdate_routingCommitted (d : Byte) (s : State) : RoutingCommitted (routingUpdate d s) := by
  obtain ⟨hmodes, _, _, _, _, hbyte⟩ := routingUpdate_rest d s
  obtain ⟨_, _, hsound, _⟩ := hmodes
  intro he
  rw [routingUpdate_sb, if_pos (hsound ▸ he), hbyte]
  exact ⟨rfl, fun i => by rw [routingUpdate_voice]; cases i <;> rfl⟩

/-- What a dispatch leaves committed. -/
theorem WriteRule.committed {i : Instr} {r : State → Result} (hr : WriteRule i r) {s t : State} (h : r s = .next t) :
    (∀ c, ChannelCommitted c s → ChannelCommitted c t) ∧ (VolumeCommitted s → VolumeCommitted t)
      ∧ (RoutingCommitted s → RoutingCommitted t) := by
  cases hr with
  | register hw =>
    have hb := hw.registerBody
    have hside := channelWrite_next h
    exact ⟨fun c hc => .of_recordSide hside (channelUpdate_committed hb _ fun _ => hc),
      fun hv => .of_recordSide hside (channelUpdate_volumeCommitted hb _ hv),
      fun hp => .of_recordSide hside (channelUpdate_routingCommitted hb _ hp)⟩
  | mastervol d =>
    have hside := send_recordSide h
    refine ⟨fun c hc => .of_recordSide hside (hc.congr (commit_soundEnabled ..) ?_ (mastervolUpdate_params d s c)),
      fun _ => .of_recordSide hside (mastervolUpdate_volumeCommitted d s), fun hp => .of_recordSide hside fun he => ?_⟩
    · rw [mastervolUpdate_sb]
      split <;> exact ⟨rfl, rfl, rfl⟩
    · rw [mastervolUpdate, commit_soundEnabled] at he
      rw [mastervolUpdate_sb, if_pos he]
      rw [show (mastervolUpdate d s).routing = s.routing from commit_routing ..]
      simpa only [mastervolUpdate_voice] using hp he
  | routing d =>
    have hside := send_recordSide h
    obtain ⟨⟨_, _, hsound, _⟩, hvolume, _⟩ := routingUpdate_rest d s
    refine ⟨fun c hc => .of_recordSide hside (hc.congr hsound ?_ (routingUpdate_params d s c)),
      fun hv => .of_recordSide hside fun he => ?_, fun _ => .of_recordSide hside (routingUpdate_routingCommitted d s)⟩
    · rw [routingUpdate_sb]
      split <;> exact ⟨rfl, rfl, rfl⟩
    · rw [hsound] at he
      rw [routingUpdate_sb, if_pos he, hvolume]
      exact hv he
  | wave | nothing =>
    cases h
    exact ⟨fun c => by cases c <;> exact id, id, fun hp he => ⟨(hp he).1, fun i => by cases i <;> exact (hp he).2 _⟩⟩

/-- A dispatch without a trigger sets no on-bit (R121, R181). -/
theorem WriteRule.onMaskClear {i : Instr} {r : State → Result} (hr : WriteRule i r) {s t : State}
    (htrig : admitsTrigger i s = false) (h : r s = .next t) (hs : OnMaskClear s) : OnMaskClear t := by
  cases hr with
  | register hw =>
    exact .of_recordSide (channelWrite_next h)
      (channelUpdate_onMaskClear hw.registerBody _ ((hw.trigger s).trans htrig) hs)
  | mastervol d =>
    refine .of_recordSide (send_recordSide h) fun he => ?_
    rw [mastervolUpdate, commit_soundEnabled] at he
    rw [mastervolUpdate_sb, if_pos he]
    exact hs he
  | routing d =>
    obtain ⟨⟨_, _, hsound, _⟩, _⟩ := routingUpdate_rest d s
    refine .of_recordSide (send_recordSide h) fun he => ?_
    rw [hsound] at he
    rw [routingUpdate_sb, if_pos he]
    exact hs he
  | wave | nothing =>
    cases h
    exact hs

end Sys2Proof.Machine
end

section
/-! The run of a resync's tasks while no `Send` can hold P: what it keeps, and its two passes (R180 to R183). -/

namespace Sys2Proof.Machine

/-! ### What a run of dispatches keeps -/

/-- What the dispatches of a resync keep. -/
structure ReplayKeeps (s t : State) : Prop where
  calm    : t.Calm
  frame   : ReplayFrame s t
  channel : ∀ c, ChannelCommitted c s → ChannelCommitted c t
  volume  : VolumeCommitted s → VolumeCommitted t
  routing : RoutingCommitted s → RoutingCommitted t

theorem ReplayKeeps.trans {s t u : State} (h : ReplayKeeps s t) (h' : ReplayKeeps t u) : ReplayKeeps s u :=
  ⟨h'.calm, h.frame.trans h'.frame, fun c => h'.channel c ∘ h.channel c, h'.volume ∘ h.volume,
    h'.routing ∘ h.routing⟩

theorem ReplayKeeps.refl {s : State} (hs : s.Calm) : ReplayKeeps s s := ⟨hs, .refl s, fun _ => id, id, id⟩

theorem WriteRule.calm {i : Instr} {r : State → Result} (hr : WriteRule i r) {s t : State} (hs : s.Calm)
    (h : r s = .next t) : t.Calm := by
  have global {k : MsgKind} {u : State} (hu : protocolSide u = protocolSide s) (h : send k .all u = .next t) :
      t.Calm := by
    have hcalm := calm_of_mailSide (mailSide_of_protocolSide hu) hs
    have ⟨hsilent, hnever, _⟩ := hcalm
    cases (send_delivered k .all hsilent hnever).symm.trans h
    exact delivered_calm _ hcalm
  cases hr with
  | register hw => exact calm_of_mailSide (channelWrite_calm hw.registerBody hs h).1 (deliveredAll_calm _ hs)
  | mastervol d => exact global (mastervolUpdate_protocolSide d s) h
  | routing d => exact global (routingUpdate_protocolSide d s) h
  | wave | nothing =>
    cases h
    exact hs

theorem WriteRule.keeps {i : Instr} {r : State → Result} (hr : WriteRule i r) {s t : State} (hs : s.Calm)
    (h : r s = .next t) : ReplayKeeps s t := by
  obtain ⟨hchannel, hvolume, hrouting⟩ := hr.committed h
  exact ⟨hr.calm hs h, hr.frame hs.1 h, hchannel, hvolume, hrouting⟩

/-- A task of a resync runs one rule of a write; of the other task, the last line of UNMUTE, this is not said (R290). -/
theorem runTask_rule {k : Task} (hk : k ≠ .unmuteWord) (s : State) : ∃ i r, WriteRule i r ∧ runTask k s = r s := by
  cases k with
  | bulk a =>
    obtain ⟨r, hr, h⟩ := dispatch_eq_rule a (bulkByte a s) s
    exact ⟨_, r, hr, h⟩
  | retrigger c prev =>
    rw [runTask]
    split
    · obtain ⟨r, hr, h⟩ := dispatch_eq_rule (trigReg c) (withTrigger (s.ioByte (trigReg c))) s
      exact ⟨_, r, hr, h⟩
    · exact ⟨_, noEffect, .nothing .refresh, rfl⟩
  | unmuteWord => exact absurd rfl hk

theorem runTask_keeps {k : Task} (hk : k ≠ .unmuteWord) {s : State} (hs : s.Calm) :
    ∃ t, runTask k s = .next t ∧ ReplayKeeps s t := by
  obtain ⟨i, r, hr, h⟩ := runTask_rule hk s
  obtain ⟨t, ht⟩ := hr.completes hs.1
  exact ⟨t, h.trans ht, hr.keeps hs ht⟩

/-- No task of a resync is put off (R253). -/
theorem runTasks_cons {k : Task} (hk : k ≠ .unmuteWord) (ks : List Task) {s : State} (hs : s.Calm) :
    runTasks (k :: ks) s = andThen (runTask k s) (runTasks ks) := by
  obtain ⟨t, ht, hkeeps⟩ := runTask_keeps hk hs
  obtain ⟨_, _, hheld⟩ := hkeeps.calm
  rw [runTasks, ht, andThen_next, andThen_next, hheld]
  rfl

section Tasks

variable {ks : List Task} (hks : ∀ k ∈ ks, k ≠ .unmuteWord) {s : State} (hs : s.Calm)
include hks hs

theorem runTasks_keeps : ∃ t, runTasks ks s = .next t ∧ ReplayKeeps s t := by
  induction ks generalizing s with
  | nil => exact ⟨s, rfl, .refl hs⟩
  | cons k ks ih =>
    have hk := hks k List.mem_cons_self
    obtain ⟨u, hu, hkeeps⟩ := runTask_keeps hk hs
    obtain ⟨t, ht, hkeeps'⟩ := ih (fun k hk => hks k (List.mem_cons_of_mem _ hk)) hkeeps.calm
    exact ⟨t, by rw [runTasks_cons hk ks hs, hu, andThen_next, ht], hkeeps.trans hkeeps'⟩

theorem runTasks_append (ks' : List Task) : runTasks (ks ++ ks') s = andThen (runTasks ks s) (runTasks ks') := by
  induction ks generalizing s with
  | nil => rfl
  | cons k ks ih =>
    have hk := hks k List.mem_cons_self
    obtain ⟨u, hu, hkeeps⟩ := runTask_keeps hk hs
    rw [List.cons_append, runTasks_cons hk _ hs, runTasks_cons hk _ hs, hu, andThen_next, andThen_next,
      ih (fun k hk => hks k (List.mem_cons_of_mem _ hk)) hkeeps.calm]

/-- What one of the tasks establishes and all of them keep holds in the end. -/
theorem runTasks_establishes {P : State → Prop} {k : Task} (hk : k ∈ ks)
    (establishes : ∀ {u v}, runTask k u = .next v → P v) (kept : ∀ {u v}, ReplayKeeps u v → P u → P v) {t : State}
    (h : runTasks ks s = .next t) : P t := by
  obtain ⟨before, after, rfl⟩ := List.mem_iff_append.mp hk
  have hbefore (k' : Task) (hk' : k' ∈ before) := hks k' (List.mem_append_left _ hk')
  have hafter (k' : Task) (hk' : k' ∈ after) := hks k' (List.mem_append_right _ (List.mem_cons_of_mem _ hk'))
  obtain ⟨u, hu, hkeeps⟩ := runTasks_keeps hbefore hs
  obtain ⟨v, hv, hkeeps'⟩ := runTask_keeps (hks k hk) hkeeps.calm
  obtain ⟨t', ht', hkeeps''⟩ := runTasks_keeps hafter hkeeps'.calm
  rw [runTasks_append hbefore hs, hu, andThen_next, runTasks_cons (hks k hk) _ hkeeps.calm, hv, andThen_next] at h
  cases ht'.symm.trans h
  exact kept hkeeps'' (establishes hv)

end Tasks

/-! ### What the bulk pass commits -/

theorem bulk_channelCommitted {c : Chan} {s t : State} (h : runTask (.bulk (trigReg c)) s = .next t) :
    ChannelCommitted c t := by
  rw [runTask, dispatch_trigReg] at h
  exact .of_recordSide (channelWrite_next h)
    (channelUpdate_committed (trigBody_register c _) _ fun hne => absurd rfl hne)

theorem bulk_volumeCommitted {s t : State} (h : runTask (.bulk 0x24#8) s = .next t) : VolumeCommitted t :=
  .of_recordSide (send_recordSide (k := .masterVolume) (c := .all) h) (mastervolUpdate_volumeCommitted _ s)

theorem bulk_routingCommitted {s t : State} (h : runTask (.bulk 0x25#8) s = .next t) : RoutingCommitted t :=
  .of_recordSide (send_recordSide (k := .update) (c := .all) h) (routingUpdate_routingCommitted _ s)

/-! ### The two passes -/

/-- The bulk pass, run from `u` over the host storage of `s` (R181). -/
theorem runTasks_bulk (as : List Byte) {s u t : State} (hio : u.io = s.io) (hu : u.Calm)
    (h : runTasks (as.map .bulk) u = .next t) :
    records t = records (loadedAll (as.map fun a => dispatched a (bulkByte a s)) u)
      ∧ mailSide t = mailSide (deliveredAll (loadWordsAll (as.map fun a => dispatched a (bulkByte a s)) u) u)
      ∧ (OnMaskClear u → OnMaskClear t) := by
  induction as generalizing u with
  | nil =>
    cases h
    exact ⟨rfl, rfl, id⟩
  | cons a as ih =>
    have hbyte : bulkByte a u = bulkByte a s := by simp only [bulkByte, State.ioByte, hio]
    have htrig := bulk_never_triggers a s u
    obtain ⟨v, hv, hmail, hrecords⟩ := dispatch_calm hu htrig
    have hmask : OnMaskClear u → OnMaskClear v := by
      obtain ⟨r, hr, hrv⟩ := dispatch_rule hv
      exact hr.onMaskClear htrig hrv
    have hv' : runTask (.bulk a) u = .next v := by rw [runTask, hbyte, hv]
    obtain ⟨v', hv'', hkeeps⟩ := runTask_keeps (k := .bulk a) (by simp) hu
    cases hv''.symm.trans hv'
    obtain ⟨_, _, _, _, _, _, _, _, hvio, _⟩ := hkeeps.frame.modes
    rw [List.map_cons, runTasks_cons (by simp) _ hu, hv', andThen_next] at h
    obtain ⟨hrecords', hmail', hmask'⟩ := ih (hvio.trans hio) hkeeps.calm h
    refine ⟨hrecords'.trans (records_loadedAll hrecords _), ?_, hmask' ∘ hmask⟩
    rw [hmail', loadWordsAll_records hrecords, mailSide_deliveredAll hmail, ← deliveredAll_append]
    rfl

/-- The re-trigger pass: the channels `cs` have their turns, in order (R182). -/
theorem runTasks_turns (cs : List Chan) {s : State} {m : Bool} {done : List Chan} {u t : State}
    (hu : Restarting s m done u) (hcalm : u.Calm)
    (h : runTasks (cs.map fun c => .retrigger c (s.voice c).on) u = .next t) :
    Restarting s m (cs.reverse ++ done) t
      ∧ mailSide t = mailSide (deliveredAll (cs.flatMap fun c => startIf (m && staysOn c s) c) u) := by
  induction cs generalizing done u with
  | nil =>
    cases h
    exact ⟨hu, rfl⟩
  | cons c cs ih =>
    obtain ⟨v, hv, hkeeps⟩ := runTask_keeps (k := .retrigger c (s.voice c).on) (by simp) hcalm
    obtain ⟨hturn, hmail⟩ := hu.turn hcalm hv
    rw [List.map_cons, runTasks_cons (by simp) _ hcalm, hv, andThen_next] at h
    obtain ⟨hrest, hmail'⟩ := ih hturn hkeeps.calm h
    refine ⟨by simpa using hrest, ?_⟩
    rw [hmail', mailSide_deliveredAll hmail, ← deliveredAll_append]
    rfl

/-- The turns follow the bulk pass's messages (R183). -/
theorem resyncMessages_eq (m : Bool) (s : State) :
    resyncMessages m s
      = resyncMessages false s ++ [Chan.c0, .c1, .c2, .c3].flatMap fun c => startIf (m && staysOn c s) c := by
  simp [resyncMessages, startIf, staysOn, State.voice]

/-! ### The converted samples -/

theorem convertedOver_succ (cfg : Config) (io m : Memory) (n : Nat) :
    convertedOver cfg io m (n + 1) = convertSample cfg n (io.read (0x30 + n)) (convertedOver cfg io m n) := by
  simp [convertedOver, List.range_succ]

/-- The buffer of `m` with the samples of wave byte `j` (R231). -/
def HasSamples (cfg : Config) (d : Byte) (j : Nat) (m : Memory) : Prop :=
  m.read (2 * j) = waveSample cfg (highNibble d) ∧ m.read (2 * j + 1) = waveSample cfg (lowNibble d)

section Convert

variable (cfg : Config) {m : Memory} (hm : m.wf = true)
include hm

theorem convertSample_wf (j : Nat) (d : Byte) : (convertSample cfg j d m).wf = true :=
  Memory.write_wf _ _ (Memory.write_wf _ _ hm)

theorem convertSample_read_other {j k : Nat} (d : Byte) (h : k ≠ 2 * j) (h' : k ≠ 2 * j + 1) :
    (convertSample cfg j d m).read k = m.read k := by
  rw [convertSample, Memory.read_write_other _ (Memory.write_wf _ _ hm) h', Memory.read_write_other _ hm h]

theorem convertSample_hasSamples (j : Nat) (d : Byte) : HasSamples cfg d j (convertSample cfg j d m) := by
  have hm' := Memory.write_wf (2 * j) (waveSample cfg (highNibble d)) hm
  refine ⟨?_, Memory.read_write_same _ _ hm'⟩
  rw [convertSample, Memory.read_write_other _ hm' (by omega), Memory.read_write_same _ _ hm]

theorem convertSample_hasSamples_other {i j : Nat} (h : i ≠ j) {b : Byte} (d : Byte) (hi : HasSamples cfg b i m) :
    HasSamples cfg b i (convertSample cfg j d m) := by
  unfold HasSamples
  rw [convertSample_read_other cfg hm d (by omega) (by omega), convertSample_read_other cfg hm d (by omega) (by omega)]
  exact hi

theorem convertedOver_samples (io : Memory) (n : Nat) :
    (convertedOver cfg io m n).wf = true
      ∧ ∀ j < n, HasSamples cfg (io.read (0x30 + j)) j (convertedOver cfg io m n) := by
  induction n with
  | zero => exact ⟨hm, fun j hj => absurd hj (Nat.not_lt_zero j)⟩
  | succ n ih =>
    obtain ⟨hwf, hsamples⟩ := ih
    rw [convertedOver_succ]
    refine ⟨convertSample_wf cfg hwf n _, fun j hj => ?_⟩
    by_cases hjn : j = n
    · subst hjn
      exact convertSample_hasSamples cfg hwf j _
    · exact convertSample_hasSamples_other cfg hwf hjn _ (hsamples j (by omega))

end Convert

theorem convertedFrom_reloaded {s : State} (hm : s.sampleBuf.wf = true) (m : Bool) (done : List Chan) :
    ConvertedFrom s.cfg s.io (reloaded s m done) := by
  have hbuf : (reloaded s m done).sampleBuf = convertedOver s.cfg s.io s.sampleBuf 16 := by simp only [reloaded]
  obtain ⟨_, hsamples⟩ := convertedOver_samples s.cfg hm s.io 16
  unfold ConvertedFrom
  rw [hbuf]
  exact fun j => hsamples j j.isLt

end Sys2Proof.Machine
end

section
/-! The master enable and REFRESH (R177, R180 to R183, R285). -/

namespace Sys2Proof.Machine

/-! ### The work of a resync -/

theorem bulkAddresses_eq :
    bulkAddresses = ((List.range 48).map fun k => BitVec.ofNat 8 (0x10 + k)).filter fun a => a != 0x26#8 := by decide

/-- The rule's list of tasks is R180's (R180). -/
theorem resyncTasks_eq {s u : State} (h : ∀ c, (u.voice c).on = (s.voice c).on) :
    bulkAddresses.map .bulk ++ retriggerTasks u ++ [] = resyncWork s := by
  have hturns : retriggerTasks u = [Chan.c0, .c1, .c2, .c3].map fun c => Task.retrigger c (s.voice c).on := by
    simp only [← h]
    rfl
  rw [List.append_nil, hturns, resyncWork, bulkAddresses_eq]

theorem refreshUpdate_voice (s : State) (c : Chan) : (refreshUpdate s).voice c = s.voice c := by
  cases c <;> simp [refreshUpdate, State.voice]

theorem resync_eq {s u : State} (h : ∀ c, (u.voice c).on = (s.voice c).on) :
    resync [] u = runTasks (resyncWork s) (commit .onMask 0 u) := by rw [resync, resyncTasks_eq h]

theorem refresh_eq (s : State) :
    refresh [] s = runTasks (resyncWork s) (commit .onMask 0 (refreshUpdate s)) :=
  resync_eq fun c => by rw [refreshUpdate_voice]

theorem writeMasteren_resync {d : Byte} {s : State} (hbit : d.getLsbD 7 = true) (hoff : s.masterEnable = false) :
    writeMasteren d s = runTasks (resyncWork s) (commit .onMask 0 { s with masterEnable := true }) := by
  have hbit : masterOf d = true := hbit
  rw [writeMasteren, if_neg (by simp [hbit]), if_pos ⟨hbit, hoff⟩]
  exact resync_eq fun c => by cases c <;> rfl

theorem resyncWork_dispatches (s : State) : ∀ k ∈ resyncWork s, k ≠ .unmuteWord := by
  intro k hk
  rcases List.mem_append.mp hk with h | h <;> obtain ⟨_, _, rfl⟩ := List.mem_map.mp h <;> simp

theorem bulk_mem_resyncWork {a : Byte} (ha : a ∈ bulkAddresses) (s : State) : Task.bulk a ∈ resyncWork s := by
  rw [bulkAddresses_eq] at ha
  exact List.mem_append_left _ (List.mem_map_of_mem ha)

/-! ### The run of the work -/

/-- From `s` to `u` P takes the master bit `m` and commits, among others, an empty on-mask, before a resync's passes (R180). -/
structure ResyncStart (m : Bool) (s u : State) : Prop where
  mail      : mailSide u = mailSide s
  records   : records u = records { s with masterEnable := m }
  onMask    : OnMaskClear u
  modes     : ModesKept { s with masterEnable := m } u
  flip      : u.producerFlip = s.producerFlip
  nextEvent : u.nextEvent = s.nextEvent
  events    : u.events = s.events

section Run

variable {m : Bool} {s u : State} (hu : ResyncStart m s u) (hs : s.Calm)
include hu hs

/-- Both passes, as the records, the on-mask and the mail side see them (R180 to R183). -/
theorem ResyncStart.run : ∃ t, runTasks (resyncWork s) u = .next t ∧ ReplayKeeps u t
    ∧ Restarting s m [.c3, .c2, .c1, .c0] t ∧ mailSide t = mailSide (deliveredAll (resyncMessages m s) s) := by
  have hcalm := calm_of_mailSide hu.mail hs
  have hbulk (k : Task) (hk : k ∈ bulkAddresses.map .bulk) : k ≠ .unmuteWord := by
    obtain ⟨_, _, rfl⟩ := List.mem_map.mp hk
    simp
  obtain ⟨_, _, _, _, _, _, _, _, hio, _⟩ := hu.modes
  obtain ⟨t, ht, hkeeps⟩ := runTasks_keeps (resyncWork_dispatches s) hcalm
  have hpasses := ht
  rw [resyncWork, ← bulkAddresses_eq, runTasks_append hbulk hcalm] at hpasses
  obtain ⟨v, hv, hturns⟩ := andThen_eq_next.mp hpasses
  obtain ⟨w, hw, hvkeeps⟩ := runTasks_keeps hbulk hcalm
  cases hw.symm.trans hv
  obtain ⟨hvrecords, hvmail, hvmask⟩ := runTasks_bulk bulkAddresses (s := s) hio hcalm hv
  rw [bulkWrites_eq] at hvrecords hvmail
  have hrestarting : Restarting s m [] v :=
    ⟨hvrecords.trans ((records_loadedAll hu.records _).trans (records_bulkWrites s m)),
      fun he j => by simpa using hvmask hu.onMask he j⟩
  obtain ⟨hrestarted, hmail⟩ := runTasks_turns [.c0, .c1, .c2, .c3] hrestarting hvkeeps.calm hturns
  refine ⟨t, ht, hkeeps, hrestarted, ?_⟩
  rw [loadWordsAll_records hu.records, loadWordsAll_bulkWrites] at hvmail
  rw [hmail, mailSide_deliveredAll hvmail, ← deliveredAll_append, ← resyncMessages_eq, mailSide_deliveredAll hu.mail]

/-- The bulk pass commits every record, and the turns after it keep that so (R121, R170, R172). -/
theorem ResyncStart.committed {t : State} (ht : runTasks (resyncWork s) u = .next t) :
    (∀ c, ChannelCommitted c t) ∧ VolumeCommitted t ∧ RoutingCommitted t := by
  have hcalm := calm_of_mailSide hu.mail hs
  have hdispatches := resyncWork_dispatches s
  have hmem (a : Byte) (ha : a ∈ bulkAddresses) := bulk_mem_resyncWork ha s
  exact ⟨fun c => runTasks_establishes hdispatches hcalm (hmem (trigReg c) (by cases c <;> decide))
      bulk_channelCommitted (fun hkeeps => hkeeps.channel c) ht,
    runTasks_establishes hdispatches hcalm (hmem 0x24#8 (by decide)) bulk_volumeCommitted
      (fun hkeeps => hkeeps.volume) ht,
    runTasks_establishes hdispatches hcalm (hmem 0x25#8 (by decide)) bulk_routingCommitted
      (fun hkeeps => hkeeps.routing) ht⟩

end Run

theorem records_sampleBuf (s : State) : (records s).sampleBuf = s.sampleBuf := rfl

/-- The records of the end of the passes, all of them committed, are the resynced ones (R180 to R182). -/
theorem Restarting.resynced {m : Bool} {s t : State} (h : Restarting s m [.c3, .c2, .c1, .c0] t)
    (hbuf : s.sampleBuf.wf = true) (hsound : t.soundEnabled = s.soundEnabled) (hchannel : ∀ c, ChannelCommitted c t)
    (hvolume : VolumeCommitted t) (hrouting : RoutingCommitted t) : Resynced m s t := by
  have hproj {α : Type} (f : State → α) :
      f (Machine.records t) = f (Machine.records (reloaded s m [.c3, .c2, .c1, .c0])) := congrArg f h.records
  have hdone (c : Chan) : (m && decide (c ∈ [Chan.c3, .c2, .c1, .c0])) = m := by cases c <;> simp
  have hconverted : ConvertedFrom s.cfg s.io t := by
    unfold ConvertedFrom
    rw [← records_sampleBuf t, h.records, records_sampleBuf]
    exact convertedFrom_reloaded hbuf m _
  refine ⟨(hproj State.ch0).trans (congrArg (loadedCh0 s) (hdone .c0)),
    (hproj State.ch1).trans (congrArg (loadedCh1 s) (hdone .c1)), hproj State.ch2,
    (hproj State.ch3).trans (congrArg (loadedCh3 s) (hdone .c3)), hproj State.masterEnable, hproj State.masterVolume,
    hproj State.routing, hconverted, fun he => ?_⟩
  have he : t.soundEnabled = true := hsound.trans he
  obtain ⟨hbyte, hpan⟩ := hrouting he
  refine ⟨fun i => by rw [h.onMask he i, hdone], hvolume he, hbyte, fun i => ?_⟩
  obtain ⟨hvol, hfreq, hduty⟩ := hchannel i he
  exact ⟨hvol, hfreq, hpan i, hduty⟩

/-- What a resync from `s` leaves in `t` besides its messages: what it rebuilds, and that the rest is kept. -/
structure ResyncResult (m : Bool) (s t : State) : Prop where
  resynced  : Resynced m s t
  flip      : t.producerFlip = s.producerFlip
  modes     : ModesKept { s with masterEnable := m, sampleBuf := t.sampleBuf } t
  output    : NoOutput s t
  nextEvent : t.nextEvent ≤ s.nextEvent
  held      : t.held = none

/-- A resync that nothing can hold rebuilds what it should, sends what it should, and keeps the rest (R180 to R183). -/
theorem ResyncStart.result {m : Bool} {s u : State} (hu : ResyncStart m s u) (hs : s.Calm)
    (hbuf : s.sampleBuf.wf = true) : ∃ t, runTasks (resyncWork s) u = .next t ∧ ReplayFrame u t
      ∧ ResyncResult m s t ∧ SendsAll (resyncMessages m s) s t := by
  obtain ⟨t, ht, hkeeps, hrestarted, hmail⟩ := hu.run hs
  obtain ⟨hchannel, hvolume, hrouting⟩ := hu.committed hs ht
  obtain ⟨hsilent, _, _⟩ := hs
  obtain ⟨_, _, hheld⟩ := hkeeps.calm
  have hframe := hkeeps.frame
  have hmodes : ModesKept { s with masterEnable := m, sampleBuf := t.sampleBuf } t := by
    have hstart := hu.modes
    have hrun := hframe.modes
    simp only [ModesKept] at hstart hrun ⊢
    simp only [hrun, hstart, and_self]
  have ⟨_, _, hsound, _⟩ := hmodes
  exact ⟨t, ht, hframe, ⟨hrestarted.resynced hbuf hsound hchannel hvolume hrouting, hframe.flip.trans hu.flip, hmodes,
    by rw [NoOutput, hframe.output, hu.events], hframe.nextEvent.trans hu.nextEvent.le, hheld⟩,
    sendsAll_of_mailSide hsilent hmail⟩

/-! ### Its two starts -/

theorem commit_onMaskClear (s : State) : OnMaskClear (commit .onMask 0 s) := by
  intro he j
  rw [commit_soundEnabled] at he
  rw [commit_sb, if_pos he]
  exact maskBit_zero j

theorem resyncStart_masterEnable (m : Bool) (s : State) :
    ResyncStart m s (commit .onMask 0 { s with masterEnable := m }) where
  mail := mailSide_commit (f := .onMask) (.inl rfl) 0 { s with masterEnable := m }
  records := records_commit ..
  onMask := commit_onMaskClear _
  modes := commit_modes ..
  flip := commit_producerFlip ..
  nextEvent := commit_nextEvent ..
  events := commit_events ..

theorem resyncStart_refresh (s : State) :
    ResyncStart (masterOf (s.ioByte 0x26#8)) s (commit .onMask 0 (refreshUpdate s)) where
  mail := by
    rw [mailSide_commit (.inl rfl), refreshUpdate, mailSide_commit (.inl rfl), mailSide_commit (.inr rfl)]
    rfl
  records := by simp only [refreshUpdate, records_commit]
  onMask := commit_onMaskClear _
  modes := by simp [refreshUpdate, ModesKept]
  flip := by simp [refreshUpdate]
  nextEvent := by simp [refreshUpdate]
  events := by simp [refreshUpdate]

theorem masterEnable_commits (m : Bool) (s : State) :
    CommitsOnly resyncFields s (commit .onMask 0 { s with masterEnable := m }) :=
  CommitsOnly.trans (t := { s with masterEnable := m }) (.own rfl rfl rfl rfl rfl rfl) (.commit (by decide) _ _)

theorem refresh_commits (s : State) :
    CommitsOnly (.hyperSync :: .producerFlip :: resyncFields) s (commit .onMask 0 (refreshUpdate s)) :=
  CommitsOnly.trans (t := { s with masterEnable := masterOf (s.ioByte 0x26#8) }) (.own rfl rfl rfl rfl rfl rfl)
    (.trans (.commit (by decide) _ _) (.trans (.commit (by decide) _ _) (.commit (by decide) _ _)))

/-- The first commits and then the passes. -/
theorem CommitsOnly.blocksKept {fs : List Field} {s u t : State} (h : CommitsOnly fs s u)
    (hfields : ∀ f ∈ resyncFields, f ∈ fs) (ht : BlocksKeptOutside resyncFields u t) : BlocksKeptOutside fs s t :=
  BlocksKeptOutside.trans h.cfg h.soundEnabled h.target (fun a _ ha _ => h.bytes a ha)
    fun a hbuf ha hprotocol => ht a hbuf (fun he f hf => ha he f (hfields f hf)) hprotocol

/-- REFRESH publishes the mode and the flip (R285). -/
theorem refresh_published {s : State} (he : s.soundEnabled = true) :
    (commit .onMask 0 (refreshUpdate s)).sb.hyperSync = s.accurateSync
      ∧ (commit .onMask 0 (refreshUpdate s)).sb.producerFlip = s.producerFlip := by
  simp only [refreshUpdate, commit_sb, commit_soundEnabled, he, if_true, SharedBlock.put, flagWord_bit, and_self]

/-- Settles O32: the rules are the work of R180 after their first commits; while no `Send` holds P, the bulk pass loads and
commits every record, each turn restarts its channel, and neither pass touches the rest. -/
theorem resyncReplaysTheHostStorage : Obligations.ResyncReplaysTheHostStorage := by
  refine ⟨fun s hready => ⟨?passes, fun d hbit hoff => ?enable⟩, fun s hready hs hn hmem => ?_⟩
  case passes => exact (issue_of_ready hready _).trans (refresh_eq s)
  case enable => exact (issue_of_ready hready _).trans (writeMasteren_resync hbit hoff)
  obtain ⟨_, hbuf, _⟩ := hmem
  have ⟨_, _, hheld⟩ := hready
  have hcalm : s.Calm := ⟨hs, hn, hheld⟩
  constructor
  · obtain ⟨t, ht, hframe, hresult, hsends⟩ := (resyncStart_refresh s).result hcalm hbuf
    obtain ⟨hresynced, hflip, hmodes, houtput, hnext, hheld'⟩ := hresult
    have ⟨_, hmaster, _⟩ := hmodes
    exact ⟨t, (issue_of_ready hready _).trans ((refresh_eq s).trans ht), hresynced, hsends,
      fun he => ⟨hframe.flags.1.trans (refresh_published he).1, hframe.flags.2.trans (refresh_published he).2⟩,
      hflip, hmaster ▸ hmodes, houtput, hnext, hheld', (refresh_commits s).blocksKept (by decide) hframe.blocks⟩
  · intro d hbit hoff
    obtain ⟨t, ht, hframe, hresult, hsends⟩ := (resyncStart_masterEnable true s).result hcalm hbuf
    obtain ⟨hresynced, hflip, hmodes, houtput, hnext, hheld'⟩ := hresult
    exact ⟨t, (issue_of_ready hready _).trans ((writeMasteren_resync hbit hoff).trans ht), hresynced, hsends, hflip,
      hmodes, houtput, hnext, hheld', (masterEnable_commits true s).blocksKept (fun _ => id) hframe.blocks⟩

end Sys2Proof.Machine
end

section
/-! SUPPORT. ADVANCE in closed form (R200 to R208): how its sweep turn ends, the records that its passes leave, and what
each pass does to the committed parameters, the events and the next-event minimum. -/

namespace Sys2Proof.Machine

/-! ### The block that P writes, after the updates of the passes -/

@[simp] theorem setEnv_sb (i : Chan) (v : Envelope) (s : State) : (setEnv i v s).sb = s.sb := by simp [State.sb]
@[simp] theorem reportNext_sb (n : Int) (s : State) : (reportNext n s).sb = s.sb := rfl
@[simp] theorem signalDeactivate_sb (i : Chan) (s : State) : (signalDeactivate i s).sb = s.sb := rfl

/-- A commit of another field leaves the on-mask alone. -/
theorem commit_sb_onMask {f : Field} (hf : f ≠ .onMask) (v : Word) (s : State) :
    (commit f v s).sb.onMask = s.sb.onMask := by
  rw [commit_sb]
  split
  · exact SharedBlock.put_onMask_of_ne _ _ hf
  · rfl

theorem commit_sb_vol {f : Field} (hf : ∀ i, f ≠ .vol i) (v : Word) (s : State) :
    (commit f v s).sb.vol = s.sb.vol := by
  rw [commit_sb]
  split
  · exact SharedBlock.put_vol_of_ne _ _ hf
  · rfl

theorem commit_sb_freq {f : Field} (hf : ∀ i, f ≠ .freq i) (v : Word) (s : State) :
    (commit f v s).sb.freq = s.sb.freq := by
  rw [commit_sb]
  split
  · exact SharedBlock.put_freq_of_ne _ _ hf
  · rfl

@[simp] theorem commitOnBit_sb_vol (i : Chan) (b : Bool) (s : State) : (commitOnBit i b s).sb.vol = s.sb.vol :=
  commit_sb_vol (f := .onMask) nofun _ s

@[simp] theorem commitOnBit_sb_freq (i : Chan) (b : Bool) (s : State) : (commitOnBit i b s).sb.freq = s.sb.freq :=
  commit_sb_freq (f := .onMask) nofun _ s

/-- The commit of one on-bit while P is enabled (R36, R288). -/
theorem commitOnBit_sb_onMask (i : Chan) (b : Bool) {s : State} (he : s.soundEnabled = true) :
    (commitOnBit i b s).sb.onMask = withMaskBit s.sb.onMask i b := by
  simp [commitOnBit, commit_sb, he]

/-- The commit of one volume while P is enabled (R37, R288). -/
theorem commit_sb_vol_get (i j : Chan) (v : Word) {s : State} (he : s.soundEnabled = true) :
    (commit (.vol i) v s).sb.vol.get j = if j = i then v.setWidth 8 else s.sb.vol.get j := by
  simp [commit_sb, he, PerChan.get_set]

/-! ### The sweep turn (R202 to R204) -/

/-- The frequencies of a sweep depend on its first frequency, its direction and its shift only. -/
theorem sweptAfter_congr {s t : State} (hfreq : t.ch0.freq = s.ch0.freq) (hdown : t.ch0.sweep.down = s.ch0.sweep.down)
    (hshift : t.ch0.sweep.shift = s.ch0.sweep.shift) (n : Nat) : sweptAfter t n = sweptAfter s n := by
  induction n with
  | zero => exact congrArg BitVec.toNat hfreq
  | succ n ih => rw [sweptAfter_succ, sweptAfter_succ, ih, hdown, hshift]

/-- The slice in which the passes of an `ADVANCE` begin (R201). -/
def sliceStart (s : State) : Slice := ⟨{ s with nextEvent := noEvent }, false⟩

/-- The state with the record of channel 0 replaced. -/
def withCh0 (a : SweptSquare) (s : State) : State := { s with ch0 := a }

section WithCh0

variable {a : SweptSquare} {s : State}

theorem withCh0_voice (h : a.voice = s.ch0.voice) (c : Chan) : (withCh0 a s).voice c = s.voice c := by
  cases c with
  | c0 => exact h
  | c1 | c2 | c3 => rfl

theorem withCh0_env (h : a.env = s.ch0.env) (c : Chan) : (withCh0 a s).env c = s.env c := by
  cases c with
  | c0 => exact congrArg some h
  | c1 | c2 | c3 => rfl

theorem withCh0_vol (h : a.env = s.ch0.env) (c : Chan) : (withCh0 a s).vol c = s.vol c := by
  cases c with
  | c0 => exact congrArg (fun v => v.vol.setWidth 8) h
  | c1 | c2 | c3 => rfl

end WithCh0

/-- The record of channel 0 after `e` cycles and `n` sweep steps (R202, R203). -/
def sweptCh0 (e : Int) (s : State) (n : Nat) : SweptSquare :=
  { s.ch0 with
    freq := BitVec.ofNat 12 (sweptAfter s n)
    sweep := { s.ch0.sweep with
      counter := s.ch0.sweep.counter - e + n * sweepPeriod s.cfg s.ch0.sweep.time } }

/-- The slice after `e` cycles and `n` sweep steps in range: the last frequency is committed (R203). -/
def sweptTurn (e : Int) (s : State) (n : Nat) : Slice :=
  let t := withCh0 (sweptCh0 e s n) (sliceStart s).state
  ⟨if n = 0 then t else commit (.freq .c0) ((BitVec.ofNat 16 (sweptAfter s n)).setWidth 32) t,
    decide (sweptAfter s n ≠ sweptAfter s 0)⟩

theorem sweptAfter_sliceStart (s : State) (n : Nat) : sweptAfter (sliceStart s).state n = sweptAfter s n :=
  sweptAfter_congr (s := s) (t := (sliceStart s).state) rfl rfl rfl n

theorem sweptAfter_elapse (e : Int) (s : State) (n : Nat) :
    sweptAfter (sweepElapse e (sliceStart s).state) n = sweptAfter s n :=
  sweptAfter_congr (s := s) (t := sweepElapse e (sliceStart s).state) rfl rfl rfl n

theorem sweptRecord_elapse (e : Int) (s : State) (n : Nat) :
    sweptRecord (sweepElapse e (sliceStart s).state) n = sweptCh0 e s n := by
  unfold sweptRecord sweptCh0
  rw [sweptAfter_elapse]
  rfl

/-- How the sweep turn of an `ADVANCE` that ends leaves the slice: channel 0 has no sweep to run; or `n` steps in range
fire; or step `n + 1` overflows and switches the channel off. -/
inductive SweepTurn (e : Int) (s : State) (q : Slice) : Prop
  | rests (hrest : s.ch0.voice.on = false ∨ s.ch0.sweep.time = 0#3) (hq : q = sliceStart s)
  | inRange (n : Nat) (hon : s.ch0.voice.on = true) (htime : s.ch0.sweep.time ≠ 0#3)
      (hf : Fires (s.ch0.sweep.counter - e) (sweepPeriod s.cfg s.ch0.sweep.time) n)
      (hr : ∀ k, 1 ≤ k → k ≤ n → sweptAfter s k ≤ 0x7FF)
      (hq : q = { sweptTurn e s n with
        state := reportNext (sweptCh0 e s n).sweep.counter (sweptTurn e s n).state })
  | overflow (n : Nat) (hon : s.ch0.voice.on = true) (htime : s.ch0.sweep.time ≠ 0#3)
      (hc : s.ch0.sweep.counter - e + n * sweepPeriod s.cfg s.ch0.sweep.time ≤ 0)
      (hr : ∀ k, 1 ≤ k → k ≤ n → sweptAfter s k ≤ 0x7FF) (ho : 0x7FF < sweptAfter s (n + 1))
      (hq : q = switchOff .c0 { sweptTurn e s n with
        state := withCh0 (sweptCh0 e s (n + 1)) (sweptTurn e s n).state })

/-- The closed form of the sweep steps, from the start of the slice on. -/
theorem sweptSlice_elapse (e : Int) (s : State) (n : Nat) :
    sweptSlice { sliceStart s with state := sweepElapse e (sliceStart s).state } n = sweptTurn e s n := by
  unfold sweptSlice sweptTurn
  split
  · next hn =>
    subst hn
    simp [sliceStart, sweepElapse, withCh0, sweptCh0, sweptAfter]
  · simp only [sweptRecord_elapse, sweptAfter_elapse]
    rfl

@[simp] theorem sweptTurn_ch0 (e : Int) (s : State) (n : Nat) : (sweptTurn e s n).state.ch0 = sweptCh0 e s n := by
  unfold sweptTurn
  dsimp only
  split
  · rfl
  · exact commit_ch0 ..

/-- The loop takes `n` steps that are due and in range. -/
theorem sweepLoop_elapse {e : Int} {s : State} (hon : s.ch0.voice.on = true) (n : Nat)
    (hc : ∀ k : Nat, k < n → s.ch0.sweep.counter - e + k * sweepPeriod s.cfg s.ch0.sweep.time ≤ 0)
    (hr : ∀ k, 1 ≤ k → k ≤ n → sweptAfter s k ≤ 0x7FF) :
    sweepLoop n { sliceStart s with state := sweepElapse e (sliceStart s).state } = sweptTurn e s n := by
  rw [← sweptSlice_elapse]
  exact sweepLoop_inRange { sliceStart s with state := sweepElapse e (sliceStart s).state } hon 0 n hc
    fun k h1 h2 => by rw [sweptAfter_elapse]; exact hr k h1 h2

section SweepPass

variable {e : Int} {s : State} (hon : s.ch0.voice.on = true) (htime : s.ch0.sweep.time ≠ 0#3) {n : Nat}
include hon htime

theorem sweepPass_turn_inRange (hf : Fires (s.ch0.sweep.counter - e) (sweepPeriod s.cfg s.ch0.sweep.time) n)
    (hr : ∀ k, 1 ≤ k → k ≤ n → sweptAfter s k ≤ 0x7FF) : SweepTurn e s (sweepPass e (sliceStart s)) := by
  refine .inRange n hon htime hf hr ?_
  rw [sweepPass_inRange (p := sliceStart s) hon htime hf fun k h1 h2 => by
    rw [sweptAfter_sliceStart]; exact hr k h1 h2]
  dsimp only
  rw [sweptSlice_ch0, sweptRecord_elapse, sweptSlice_elapse]

theorem sweepPass_turn_overflow (hc : s.ch0.sweep.counter - e + n * sweepPeriod s.cfg s.ch0.sweep.time ≤ 0)
    (hr : ∀ k, 1 ≤ k → k ≤ n → sweptAfter s k ≤ 0x7FF) (ho : 0x7FF < sweptAfter s (n + 1)) :
    SweepTurn e s (sweepPass e (sliceStart s)) := by
  refine .overflow n hon htime hc hr ho ?_
  rw [sweepPass_overflow (p := sliceStart s) hon htime hc (fun k h1 h2 => by
    rw [sweptAfter_sliceStart]; exact hr k h1 h2) (by rw [sweptAfter_sliceStart]; exact ho)]
  dsimp only
  rw [sweptRecord_elapse, sweptSlice_elapse]
  rfl

/-- A sweep that is due with a period of 0 and never overflows leaves its loop by the fuel alone, still due (log entry
11). -/
theorem sweepPass_endless (hP : sweepPeriod s.cfg s.ch0.sweep.time = 0) (hc : s.ch0.sweep.counter - e ≤ 0)
    (hr : ∀ k, 1 ≤ k → sweptAfter s k ≤ 0x7FF) :
    (sweepPass e (sliceStart s)).state.ch0 = sweptCh0 e s 0x800 := by
  have hfuel : loopSteps (s.ch0.sweep.counter - e) (sweepPeriod s.cfg s.ch0.sweep.time) = 0x800 := by
    rw [loopSteps, if_neg (by omega), if_pos hP]
  have hloop := sweepLoop_elapse hon (e := e) 0x800 (fun k _ => by rw [hP]; omega) fun k h1 _ => hr k h1
  have hguard : ((sliceStart s).state.ch0.voice.on && decide ((sliceStart s).state.ch0.sweep.time ≠ 0#3)) = true := by
    simp [sliceStart, hon, htime]
  unfold sweepPass
  rw [if_pos hguard]
  change (sweepReport (sweepLoop
    (loopSteps (s.ch0.sweep.counter - e) (sweepPeriod s.cfg s.ch0.sweep.time)) _)).state.ch0 = _
  rw [hfuel, hloop]
  unfold sweepReport
  split
  · exact sweptTurn_ch0 e s 0x800
  · exact sweptTurn_ch0 e s 0x800

end SweepPass

/-- A sweep that is due with a period of 0 and never overflows does not end (log entry 11). -/
theorem sweepEndless_of_due {e : Int} {s : State} (hon : s.ch0.voice.on = true) (htime : s.ch0.sweep.time ≠ 0#3)
    (hP : sweepPeriod s.cfg s.ch0.sweep.time = 0) (hc : s.ch0.sweep.counter - e ≤ 0)
    (hr : ∀ k, 1 ≤ k → sweptAfter s k ≤ 0x7FF) : sweepEndless e s = true := by
  have hch0 := sweepPass_endless hon htime hP hc hr
  unfold sweepEndless
  dsimp only [sliceStart] at hch0 ⊢
  rw [hch0]
  simp [sweptCh0, hon, htime, hP, hc]

/-- The sweep turn of an `ADVANCE` that ends (R200, R202 to R204). -/
theorem sweepPass_turn {e : Int} {s : State} (hends : sweepEndless e s = false) :
    SweepTurn e s (sweepPass e (sliceStart s)) := by
  by_cases hrest : s.ch0.voice.on = false ∨ s.ch0.sweep.time = 0#3
  · exact .rests hrest (sweepPass_off e (sliceStart s) hrest)
  rw [not_or, Bool.not_eq_false] at hrest
  obtain ⟨hon, htime⟩ := hrest
  cases sweep_outcome s (s.ch0.sweep.counter - e) (sweepPeriod_nonneg s.cfg s.ch0.sweep.time) with
  | inRange n hf hr => exact sweepPass_turn_inRange hon htime hf hr
  | overflow n hc hr ho => exact sweepPass_turn_overflow hon htime hc hr ho
  | endless hP hc hr =>
    rw [sweepEndless_of_due hon htime hP hc hr] at hends
    cases hends

end Sys2Proof.Machine
end

section
/-! SUPPORT. The envelope and length turns of ADVANCE in closed form (R205 to R208): one equation per turn, and the
records that they leave together. -/

namespace Sys2Proof.Machine

/-! ### One turn -/

/-- The state with the envelope `v` of channel `i` become `w`, a changed volume committed (R206). -/
def enveloped (i : Chan) (v w : Envelope) (s : State) : State :=
  if w.vol ≠ v.vol then commit (.vol i) (w.vol.setWidth 32) (setEnv i w s) else setEnv i w s

/-- The state with the voice `v` of channel `i` become `w`; when it went off, the on-bit is cleared and the host told
(R208). -/
def lengthened (i : Chan) (v w : Voice) (s : State) : State :=
  if v.on && !w.on then signalDeactivate i (commitOnBit i false (setVoice i w s)) else setVoice i w s

/-- The report of an envelope turn: of the counter that it leaves, when the envelope runs (R212). -/
def envelopeReports (on : Bool) (w : Envelope) : List Int := if on && decide (w.period ≠ 0#3) then [w.counter] else []

/-- The report of a length turn: of the counter that it leaves, when the length still runs (R212). -/
def lengthReports (w : Voice) : List Int := if w.on && w.lenEnable then [w.lenCounter] else []

/-- The event of a length turn: the channel went off (R305). -/
def deactivation (i : Chan) (v w : Voice) : List HostEvent := if v.on && !w.on then [.deactivate i] else []

theorem setEnv_same {i : Chan} {v : Envelope} {s : State} (hv : s.env i = some v) : setEnv i v s = s := by
  cases i <;> simp only [State.env, Option.some.injEq, reduceCtorEq] at hv <;> simp [setEnv, ← hv]

theorem setVoice_same (i : Chan) (s : State) : setVoice i (s.voice i) s = s := by cases i <;> rfl

@[simp] theorem envelopeAfter_period (cfg : Config) (e : Int) (on : Bool) (v : Envelope) :
    (envelopeAfter cfg e on v).period = v.period := by
  unfold envelopeAfter
  split <;> rfl

/-- An envelope turn, exactly (R205, R206). -/
theorem envelopePass_turn (e : Int) {i : Chan} {p : Slice} {v : Envelope} (hc : configAdmitted p.state.cfg = true)
    (hv : p.state.env i = some v) :
    envelopePass e i p =
      let w := envelopeAfter p.state.cfg e (p.state.voice i).on v
      ⟨{ enveloped i v w p.state with
          nextEvent := (envelopeReports (p.state.voice i).on w).foldl min p.state.nextEvent },
        p.changed || decide (w.vol ≠ v.vol)⟩ := by
  have hi : i ≠ .c2 := by rintro rfl; cases hv
  rw [envelopePass_eq e hi hc hv]
  dsimp only
  unfold envelopeReports enveloped
  rw [envelopeAfter_period]
  by_cases hrun : ((p.state.voice i).on && decide (v.period ≠ 0#3)) = true
  · rw [if_pos hrun, if_pos hrun]
    split <;> simp [reportNext]
  · have hsame : envelopeAfter p.state.cfg e (p.state.voice i).on v = v := if_neg hrun
    rw [if_neg hrun, if_neg hrun, hsame, if_neg (by simp), setEnv_same hv]
    simp

/-- A length turn, exactly (R207, R208). -/
theorem lengthPass_turn (e : Int) (i : Chan) (p : Slice) :
    lengthPass e i p =
      let v := p.state.voice i
      let w := voiceAfter e v
      ⟨{ lengthened i v w p.state with nextEvent := (lengthReports w).foldl min p.state.nextEvent },
        p.changed || (v.on && !w.on)⟩ := by
  rw [lengthPass_eq]
  dsimp only
  unfold lengthened lengthReports
  by_cases hoff : ((p.state.voice i).on && !(voiceAfter e (p.state.voice i)).on) = true
  · have hw : (voiceAfter e (p.state.voice i)).on = false := by simp_all
    rw [if_pos hoff, if_pos hoff, hoff, hw]
    simp [signalDeactivate, emit, commitOnBit_nextEvent]
  · rw [if_neg hoff, if_neg hoff, Bool.eq_false_iff.mpr hoff]
    by_cases hrun : ((p.state.voice i).on && (p.state.voice i).lenEnable) = true
    · have hw : voiceAfter e (p.state.voice i) = { p.state.voice i with
          lenCounter := (p.state.voice i).lenCounter - e
          on := decide (0 < (p.state.voice i).lenCounter - e) } := if_pos hrun
      rw [if_pos hrun, if_pos (by simp_all)]
      simp [reportNext, hw]
    · have hsame : voiceAfter e (p.state.voice i) = p.state.voice i := if_neg hrun
      rw [if_neg hrun, hsame, if_neg hrun, setVoice_same]
      simp

/-! ### The records after the turns -/

section ChannelsKept

variable {s t : State} (h : ChannelsKept s t)
include h

theorem ChannelsKept.voice (c : Chan) : t.voice c = s.voice c := by
  obtain ⟨h0, h1, h2, h3⟩ := h
  cases c <;> simp [State.voice, h0, h1, h2, h3]

theorem ChannelsKept.env (c : Chan) : t.env c = s.env c := by
  obtain ⟨h0, h1, h2, h3⟩ := h
  cases c <;> simp [State.env, h0, h1, h3]

theorem ChannelsKept.params (c : Chan) : t.params c = s.params c := by
  obtain ⟨h0, h1, h2, h3⟩ := h
  cases c <;> simp [State.params, State.voice, State.vol, State.freq, State.duty, h0, h1, h2, h3]

end ChannelsKept

theorem enveloped_channels (i : Chan) (v w : Envelope) (s : State) :
    ChannelsKept (setEnv i w s) (enveloped i v w s) := by
  unfold enveloped
  split <;> simp [ChannelsKept]

theorem lengthened_channels (i : Chan) (v w : Voice) (s : State) :
    ChannelsKept (setVoice i w s) (lengthened i v w s) := by
  unfold lengthened
  split <;> simp [ChannelsKept]

/-- The slice after the envelope turns and the length turns (R200). -/
def timerPasses (e : Int) (p : Slice) : Slice :=
  lengthPass e .c3 <| lengthPass e .c2 <| lengthPass e .c1 <| lengthPass e .c0 <|
    envelopePass e .c3 <| envelopePass e .c1 <| envelopePass e .c0 p

theorem advancePasses_eq (e : Int) (s : State) : advancePasses e s = timerPasses e (sweepPass e (sliceStart s)) := rfl

/-- The state with the records as the envelope turns and then the length turns leave them. -/
def turned (e : Int) (s : State) : State :=
  { s with
    ch0 := { s.ch0 with
      voice := voiceAfter e s.ch0.voice, env := envelopeAfter s.cfg e s.ch0.voice.on s.ch0.env }
    ch1 := { s.ch1 with
      voice := voiceAfter e s.ch1.voice, env := envelopeAfter s.cfg e s.ch1.voice.on s.ch1.env }
    ch2 := { s.ch2 with voice := voiceAfter e s.ch2.voice }
    ch3 := { s.ch3 with
      voice := voiceAfter e s.ch3.voice, env := envelopeAfter s.cfg e s.ch3.voice.on s.ch3.env } }

@[simp] theorem turned_voice (e : Int) (s : State) (c : Chan) : (turned e s).voice c = voiceAfter e (s.voice c) := by
  cases c <;> rfl

theorem turned_env (e : Int) (s : State) (c : Chan) :
    (turned e s).env c = (s.env c).map (envelopeAfter s.cfg e (s.voice c).on) := by
  cases c <;> rfl

section Turns

variable (e : Int) (p : Slice)

theorem envelopePass_rest {i : Chan} (hi : i ≠ .c2) : restSide (envelopePass e i p).state = restSide p.state :=
  passClosed_restSide.envelopePass e hi p

theorem lengthPass_rest (i : Chan) : restSide (lengthPass e i p).state = restSide p.state :=
  passClosed_restSide.lengthPass e i p

theorem timerPasses_rest : restSide (timerPasses e p).state = restSide p.state := by
  unfold timerPasses
  simp only [lengthPass_rest]
  rw [envelopePass_rest e _ (by decide), envelopePass_rest e _ (by decide), envelopePass_rest e _ (by decide)]

/-- What an envelope turn leaves in the records, the minimum, the events and the committed frequencies. -/
theorem envelopePass_spec {i : Chan} {v : Envelope} (hc : configAdmitted p.state.cfg = true)
    (hv : p.state.env i = some v) :
    let w := envelopeAfter p.state.cfg e (p.state.voice i).on v
    let q := (envelopePass e i p).state
    ChannelsKept (setEnv i w p.state) q
      ∧ q.nextEvent = (envelopeReports (p.state.voice i).on w).foldl min p.state.nextEvent
      ∧ q.events = p.state.events ∧ q.sb.freq = p.state.sb.freq
      ∧ (envelopePass e i p).changed = (p.changed || decide (w.vol ≠ v.vol)) := by
  rw [envelopePass_turn e hc hv]
  refine ⟨enveloped_channels .., rfl, ?_, ?_, rfl⟩
  · change (enveloped _ _ _ _).events = _
    unfold enveloped
    split <;> simp
  · change (enveloped _ _ _ _).sb.freq = _
    unfold enveloped
    split
    · rw [commit_sb_freq (by nofun), setEnv_sb]
    · rw [setEnv_sb]

/-- What a length turn leaves in the records, the minimum, the events and the committed frequencies. -/
theorem lengthPass_spec (i : Chan) :
    let w := voiceAfter e (p.state.voice i)
    let q := (lengthPass e i p).state
    ChannelsKept (setVoice i w p.state) q
      ∧ q.nextEvent = (lengthReports w).foldl min p.state.nextEvent
      ∧ q.events = p.state.events ++ deactivation i (p.state.voice i) w
      ∧ q.sb.freq = p.state.sb.freq
      ∧ (lengthPass e i p).changed = (p.changed || ((p.state.voice i).on && !w.on)) := by
  rw [lengthPass_turn]
  refine ⟨lengthened_channels .., rfl, ?_, ?_, rfl⟩
  · change (lengthened _ _ _ _).events = _
    unfold lengthened deactivation
    split <;> simp_all
  · change (lengthened _ _ _ _).sb.freq = _
    unfold lengthened
    split <;> simp

/-- The reports of the seven turns from the records of `s` on, in order (R212). -/
def timerReports (e : Int) (s : State) : List Int :=
  envelopeReports s.ch0.voice.on (turned e s).ch0.env ++ envelopeReports s.ch1.voice.on (turned e s).ch1.env
    ++ envelopeReports s.ch3.voice.on (turned e s).ch3.env
    ++ [Chan.c0, .c1, .c2, .c3].flatMap fun c => lengthReports ((turned e s).voice c)

/-- What the seven turns leave in the records, the minimum, the events and the committed frequencies. -/
theorem timerPasses_spec (hc : configAdmitted p.state.cfg = true) :
    let t := (timerPasses e p).state
    ChannelsKept (turned e p.state) t
      ∧ t.nextEvent = (timerReports e p.state).foldl min p.state.nextEvent
      ∧ t.events = p.state.events
          ++ [Chan.c0, .c1, .c2, .c3].flatMap
            (fun c => deactivation c (p.state.voice c) (voiceAfter e (p.state.voice c)))
      ∧ t.sb.freq = p.state.sb.freq := by
  dsimp only
  unfold timerPasses
  have hcfg0 := restSide_cfg (envelopePass_rest e p (i := .c0) (by decide))
  have henv0 := envelopePass_spec e p (i := .c0) hc rfl
  generalize envelopePass e .c0 p = p0 at *
  have hcfg1 := (restSide_cfg (envelopePass_rest e p0 (i := .c1) (by decide))).trans hcfg0
  have henv1 := envelopePass_spec e p0 (i := .c1) (hcfg0 ▸ hc) rfl
  generalize envelopePass e .c1 p0 = p1 at *
  have henv3 := envelopePass_spec e p1 (i := .c3) (hcfg1 ▸ hc) rfl
  generalize envelopePass e .c3 p1 = p3 at *
  have hlen0 := lengthPass_spec e p3 .c0
  generalize lengthPass e .c0 p3 = q0 at *
  have hlen1 := lengthPass_spec e q0 .c1
  generalize lengthPass e .c1 q0 = q1 at *
  have hlen2 := lengthPass_spec e q1 .c2
  generalize lengthPass e .c2 q1 = q2 at *
  have hlen3 := lengthPass_spec e q2 .c3
  generalize lengthPass e .c3 q2 = q3 at *
  simp only [ChannelsKept, setEnv, setVoice, State.voice] at *
  simp [turned, timerReports, State.voice, List.foldl_append, *]

end Turns

end Sys2Proof.Machine
end

section
/-! SUPPORT. What an ADVANCE commits, marks, signals and reports, read off the records before and after it (R204, R206,
R208 to R212). -/

namespace Sys2Proof.Machine

/-! ### The commits -/

/-- From `s` to `t` channels only go off, exactly the on-bits of those are cleared, and exactly the changed volumes are
committed (R204, R206, R208). -/
structure Tracks (s t : State) : Prop where
  rest    : restSide t = restSide s
  off     : ∀ c, (t.voice c).on = true → (s.voice c).on = true
  bits    : s.soundEnabled = true → ∀ c,
    maskBit t.sb.onMask c = (maskBit s.sb.onMask c && !((s.voice c).on && !(t.voice c).on))
  volumes : s.soundEnabled = true → ∀ c, t.sb.vol.get c = if t.vol c ≠ s.vol c then t.vol c else s.sb.vol.get c

theorem Tracks.refl (s : State) : Tracks s s := ⟨rfl, fun _ => id, by simp, by simp⟩

/-- An update of no on flag, no volume and neither of their commits. -/
theorem Tracks.congr {s t u : State} (h : Tracks s t) (hr : restSide u = restSide t)
    (hon : ∀ c, (u.voice c).on = (t.voice c).on) (hvol : ∀ c, u.vol c = t.vol c) (hmask : u.sb.onMask = t.sb.onMask)
    (hvols : u.sb.vol = t.sb.vol) : Tracks s u where
  rest := hr.trans h.rest
  off c := by rw [hon]; exact h.off c
  bits he c := by rw [hmask, hon]; exact h.bits he c
  volumes he c := by rw [hvols, hvol]; exact h.volumes he c

/-- A channel that was on until now goes off (R204, R208). -/
theorem Tracks.switchedOff {s t : State} (h : Tracks s t) {i : Chan} (hon : (t.voice i).on = true) {w : Voice}
    (hw : w.on = false) : Tracks s (signalDeactivate i (commitOnBit i false (setVoice i w t))) where
  rest := by simpa using h.rest
  off c := by
    rw [signalDeactivate_voice, commitOnBit_voice, setVoice_voice]
    split
    · simp [hw]
    · exact h.off c
  bits he c := by
    have he' : (setVoice i w t).soundEnabled = true := by
      rw [setVoice_soundEnabled, restSide_soundEnabled h.rest, he]
    rw [signalDeactivate_sb, commitOnBit_sb_onMask i false he', setVoice_sb, maskBit_withMaskBit,
      signalDeactivate_voice, commitOnBit_voice, setVoice_voice]
    by_cases hc : c = i
    · subst hc
      simp [hw, h.off c hon]
    · simpa [hc] using h.bits he c
  volumes he c := by simpa using h.volumes he c

section Enveloped

variable {i : Chan} {v w : Envelope} {s : State}

theorem enveloped_rest : restSide (enveloped i v w s) = restSide s := by
  unfold enveloped
  split
  · rw [restSide_commit _ _ rfl, restSide_setEnv]
  · rw [restSide_setEnv]

theorem enveloped_voice (c : Chan) : (enveloped i v w s).voice c = s.voice c := by
  unfold enveloped
  split <;> simp

theorem enveloped_onMask : (enveloped i v w s).sb.onMask = s.sb.onMask := by
  unfold enveloped
  split
  · rw [commit_sb_onMask (by nofun), setEnv_sb]
  · rw [setEnv_sb]

variable (hv : s.env i = some v)
include hv

theorem vol_of_env : s.vol i = v.vol.setWidth 8 := by
  cases i <;> cases hv <;> rfl

theorem setEnv_vol (c : Chan) : (setEnv i w s).vol c = if c = i then w.vol.setWidth 8 else s.vol c := by
  cases i with
  | c2 => cases hv
  | c0 | c1 | c3 => cases c <;> rfl

theorem enveloped_vol (c : Chan) : (enveloped i v w s).vol c = if c = i then w.vol.setWidth 8 else s.vol c := by
  unfold enveloped
  split <;> simp [setEnv_vol hv]

/-- Exactly a changed volume is committed (R206). -/
theorem enveloped_sb_vol (he : s.soundEnabled = true) (c : Chan) :
    (enveloped i v w s).sb.vol.get c
      = if (enveloped i v w s).vol c ≠ s.vol c then (enveloped i v w s).vol c else s.sb.vol.get c := by
  have hmoved : w.vol.setWidth 8 = s.vol i ↔ w.vol = v.vol := by
    rw [vol_of_env hv]
    exact setWidth_inj (by decide)
  rw [enveloped_vol hv]
  unfold enveloped
  by_cases hc : c = i
  · subst hc
    by_cases hw : w.vol = v.vol
    · simp [hw, vol_of_env hv]
    · simp [hw, hmoved, commit_sb_vol_get, he]
  · by_cases hw : w.vol = v.vol <;> simp [hc, hw, commit_sb_vol_get, he]

end Enveloped

/-- A volume that has not moved until now moves (R206). -/
theorem Tracks.enveloped {s t : State} (h : Tracks s t) {i : Chan} {v w : Envelope} (hv : t.env i = some v)
    (hfirst : t.vol i = s.vol i) : Tracks s (enveloped i v w t) where
  rest := enveloped_rest.trans h.rest
  off c := by rw [enveloped_voice]; exact h.off c
  bits he c := by rw [enveloped_voice, enveloped_onMask]; exact h.bits he c
  volumes he c := by
    rw [enveloped_sb_vol hv ((restSide_soundEnabled h.rest).trans he), enveloped_vol hv, h.volumes he]
    by_cases hc : c = i
    · subst hc
      simp [hfirst]
    · simp [hc]

theorem Tracks.minimum {s t : State} (h : Tracks s t) (n : Int) : Tracks s { t with nextEvent := n } :=
  h.congr rfl (fun _ => rfl) (fun _ => rfl) rfl rfl

/-- Channels 0, 1 and 3 have an envelope. -/
theorem exists_env {i : Chan} (hi : i ≠ .c2) (s : State) : ∃ v, s.env i = some v := by
  cases i with
  | c2 => exact absurd rfl hi
  | c0 | c1 | c3 => exact ⟨_, rfl⟩

/-- An envelope turn moves no other channel's volume. -/
theorem envelopePass_vol (e : Int) {i j : Chan} (hi : i ≠ .c2) (hij : j ≠ i) {p : Slice}
    (hc : configAdmitted p.state.cfg = true) : (envelopePass e i p).state.vol j = p.state.vol j := by
  obtain ⟨v, hv⟩ := exists_env hi p.state
  rw [envelopePass_turn e hc hv]
  exact (enveloped_vol hv j).trans (if_neg hij)

theorem Tracks.envelopePass {s : State} {p : Slice} (h : Tracks s p.state) (e : Int) {i : Chan} (hi : i ≠ .c2)
    (hc : configAdmitted s.cfg = true) (hfirst : p.state.vol i = s.vol i) :
    Tracks s (envelopePass e i p).state := by
  obtain ⟨v, hv⟩ := exists_env hi p.state
  rw [envelopePass_turn e (restSide_cfg h.rest ▸ hc) hv]
  exact (h.enveloped hv hfirst).minimum _

theorem voiceAfter_on_le {e : Int} {v : Voice} (h : (voiceAfter e v).on = true) : v.on = true := by
  unfold voiceAfter at h
  split at h
  · next hrun => exact (Bool.and_eq_true_iff.mp hrun).1
  · exact h

theorem voiceAfter_on_of_not_off {e : Int} {v : Voice} (h : ¬(v.on && !(voiceAfter e v).on) = true) :
    (voiceAfter e v).on = v.on := by
  have hle := voiceAfter_on_le (e := e) (v := v)
  cases hv : v.on <;> cases hw : (voiceAfter e v).on <;> simp_all

/-- A length turn changes no volume; when the counter runs out, the channel goes off (R207, R208). -/
theorem Tracks.lengthPass {s : State} {p : Slice} (h : Tracks s p.state) (e : Int) (i : Chan) :
    Tracks s (lengthPass e i p).state := by
  rw [lengthPass_turn]
  refine Tracks.minimum ?_ _
  unfold lengthened
  split
  · next hoff =>
    simp only [Bool.and_eq_true, Bool.not_eq_true'] at hoff
    obtain ⟨hon, hw⟩ := hoff
    exact h.switchedOff hon hw
  · next hstays =>
    refine h.congr (restSide_setVoice ..) (fun c => ?_) (fun c => setVoice_vol ..) ?_ ?_
    · rw [setVoice_voice]
      split
      · next hc =>
        subst hc
        exact voiceAfter_on_of_not_off hstays
      · rfl
    · rw [setVoice_sb]
    · rw [setVoice_sb]

/-! ### The sweep turn -/

section SweptTurn

variable (e : Int) (s : State) (n : Nat)

/-- The steps of a sweep change the record of channel 0 and commit its frequency (R203). -/
theorem sweptTurn_others : OtherChannelsKept .c0 s (sweptTurn e s n).state := by
  unfold sweptTurn
  dsimp only
  split <;> simp [OtherChannelsKept, withCh0, sliceStart]

@[simp] theorem sweptTurn_voice (c : Chan) : (sweptTurn e s n).state.voice c = s.voice c := by
  unfold sweptTurn
  dsimp only
  split
  · exact withCh0_voice rfl c
  · exact (commit_voice ..).trans (withCh0_voice rfl c)

@[simp] theorem sweptTurn_vol (c : Chan) : (sweptTurn e s n).state.vol c = s.vol c := by
  unfold sweptTurn
  dsimp only
  split
  · exact withCh0_vol rfl c
  · exact (commit_vol ..).trans (withCh0_vol rfl c)

@[simp] theorem sweptTurn_env (c : Chan) : (sweptTurn e s n).state.env c = s.env c := by
  unfold sweptTurn
  dsimp only
  split
  · exact withCh0_env rfl c
  · exact (commit_env ..).trans (withCh0_env rfl c)

theorem sweptTurn_ch0_env : (sweptCh0 e s (n + 1)).env = (sweptTurn e s n).state.ch0.env :=
  (congrArg SweptSquare.env (sweptTurn_ch0 e s n)).symm

@[simp] theorem sweptTurn_events : (sweptTurn e s n).state.events = s.events := by
  unfold sweptTurn
  dsimp only
  split
  · rfl
  · exact commit_events ..

@[simp] theorem sweptTurn_nextEvent : (sweptTurn e s n).state.nextEvent = noEvent := by
  unfold sweptTurn
  dsimp only
  split
  · rfl
  · exact commit_nextEvent ..

theorem sweptTurn_tracks : Tracks s (sweptTurn e s n).state := by
  have hstored : Tracks s (withCh0 (sweptCh0 e s n) (sliceStart s).state) :=
    (Tracks.refl s).congr rfl (fun c => congrArg Voice.on (withCh0_voice rfl c)) (withCh0_vol rfl) rfl rfl
  unfold sweptTurn
  dsimp only
  split
  · exact hstored
  · exact hstored.congr (restSide_commit _ _ rfl) (fun c => by rw [commit_voice]) (fun c => commit_vol ..)
      (commit_sb_onMask (by nofun) ..) (commit_sb_vol (by nofun) ..)

/-- The last frequency of a sweep that steps is the one committed (R203). -/
theorem sweptTurn_freq (he : s.soundEnabled = true) :
    (sweptTurn e s n).state.sb.freq.get .c0
      = if n = 0 then s.sb.freq.get .c0 else BitVec.ofNat 16 (sweptAfter s n) := by
  unfold sweptTurn
  dsimp only
  split
  · rfl
  · simp [commit_sb, withCh0, sliceStart, he, PerChan.get_set]

end SweptTurn

section SweepTurn

variable {e : Int} {s : State} {q : Slice} (h : SweepTurn e s q)
include h

theorem SweepTurn.others : OtherChannelsKept .c0 s q.state := by
  cases h with
  | rests _ hq =>
    subst hq
    exact ⟨fun _ => rfl, fun _ => rfl, fun _ => rfl, fun _ => rfl⟩
  | inRange n _ _ _ _ hq =>
    subst hq
    exact sweptTurn_others e s n
  | overflow n _ _ _ _ _ hq =>
    subst hq
    simpa [OtherChannelsKept, switchOff, setOn, setVoice, withCh0] using sweptTurn_others e s n

theorem SweepTurn.env (c : Chan) : q.state.env c = s.env c := by
  cases h with
  | rests _ hq => subst hq; rfl
  | inRange n _ _ _ _ hq => subst hq; simp
  | overflow n _ _ _ _ _ hq =>
    subst hq
    simp [switchOff, setOn, withCh0_env (a := sweptCh0 e s (n + 1)) (sweptTurn_ch0_env e s n)]

theorem SweepTurn.vol (c : Chan) : q.state.vol c = s.vol c := by
  cases h with
  | rests _ hq => subst hq; rfl
  | inRange n _ _ _ _ hq => subst hq; simp
  | overflow n _ _ _ _ _ hq =>
    subst hq
    simp [switchOff, setOn, withCh0_vol (a := sweptCh0 e s (n + 1)) (sweptTurn_ch0_env e s n)]

/-- The sweep turn clears the on-bit of channel 0 when it overflows, and commits no volume (R203, R204). -/
theorem SweepTurn.tracks : Tracks s q.state := by
  cases h with
  | rests _ hq =>
    subst hq
    exact (Tracks.refl s).minimum noEvent
  | inRange n _ _ _ _ hq =>
    subst hq
    exact (sweptTurn_tracks e s n).minimum _
  | overflow n hon _ _ _ _ hq =>
    subst hq
    have hstored : Tracks s (withCh0 (sweptCh0 e s (n + 1)) (sweptTurn e s n).state) :=
      (sweptTurn_tracks e s n).congr rfl
        (fun c => congrArg Voice.on (withCh0_voice (congrArg SweptSquare.voice (sweptTurn_ch0 e s n).symm) c))
        (withCh0_vol (sweptTurn_ch0_env e s n)) rfl rfl
    exact hstored.switchedOff (i := .c0) hon rfl

end SweepTurn

/-! ### The mark (R209) -/

/-- The slice is marked changed exactly when a compared value differs from `s`. -/
def Marks (s : State) (p : Slice) : Prop := p.changed = true ↔ ∃ c, p.state.params c ≠ s.params c

section Marks

variable {s : State} {p q : Slice}

theorem Marks.of_same (hm : Marks s p) (hchanged : q.changed = p.changed)
    (hparams : ∀ c, q.state.params c = p.state.params c) : Marks s q := by
  simpa [Marks, hchanged, hparams] using hm

theorem Marks.of_changed (hchanged : q.changed = true) {c : Chan} (hparams : q.state.params c ≠ s.params c) :
    Marks s q := ⟨fun _ => ⟨c, hparams⟩, fun _ => hchanged⟩

/-- A length turn marks the slice when the channel goes off, which is what its parameters show (R208). -/
theorem Marks.lengthPass (hm : Marks s p) (h : Tracks s p.state) (e : Int) (i : Chan) :
    Marks s (lengthPass e i p) := by
  obtain ⟨hch, _, _, _, hchanged⟩ := lengthPass_spec e p i
  by_cases hoff : ((p.state.voice i).on && !(voiceAfter e (p.state.voice i)).on) = true
  · refine .of_changed (c := i) (by rw [hchanged, hoff, Bool.or_true]) fun hsame => ?_
    simp only [Bool.and_eq_true, Bool.not_eq_true'] at hoff
    obtain ⟨hbefore, hafter⟩ := hoff
    have hon := congrArg Params.on hsame
    simp [State.params, hch.voice, hafter, h.off i hbefore] at hon
  · refine hm.of_same (by rw [hchanged, Bool.eq_false_iff.mpr hoff, Bool.or_false]) fun c => ?_
    have hon := voiceAfter_on_of_not_off hoff
    rw [hch.params]
    by_cases hc : c = i
    · subst hc
      simp [State.params, hon]
    · simp [State.params, setVoice_voice, hc]

/-- An envelope turn marks the slice when the volume moves, which is what its parameters show (R206). -/
theorem Marks.envelopePass (hm : Marks s p) (e : Int) {i : Chan} (hi : i ≠ .c2)
    (hc : configAdmitted p.state.cfg = true) (hfirst : p.state.vol i = s.vol i) :
    Marks s (envelopePass e i p) := by
  obtain ⟨v, hv⟩ := exists_env hi p.state
  obtain ⟨hch, _, _, _, hchanged⟩ := envelopePass_spec e p hc hv
  generalize envelopeAfter p.state.cfg e (p.state.voice i).on v = w at hch hchanged
  have hvol (c : Chan) := setEnv_vol (w := w) hv c
  by_cases hw : w.vol = v.vol
  · refine hm.of_same (by simp [hchanged, hw]) fun c => ?_
    rw [hch.params]
    by_cases hci : c = i
    · subst hci
      simp [State.params, hvol, hw, vol_of_env hv]
    · simp [State.params, hvol, hci]
  · refine .of_changed (c := i) (by simp [hchanged, hw]) fun hsame => hw ?_
    have hvol' := congrArg Params.vol (hch.params i ▸ hsame)
    simp only [State.params, hvol, if_true, ← hfirst, vol_of_env hv] at hvol'
    exact (setWidth_inj (by decide)).mp hvol'

end Marks

/-- The seven turns commit what they change and mark the slice when they change a compared value, where no volume has
moved before them (R204, R206, R208, R209). -/
theorem timerPasses_tracks_marks {s : State} {p : Slice} (h : Tracks s p.state) (hm : Marks s p) (e : Int)
    (hc : configAdmitted s.cfg = true) (hvol : ∀ c, p.state.vol c = s.vol c) :
    Tracks s (timerPasses e p).state ∧ Marks s (timerPasses e p) := by
  have admitted {q : Slice} (hq : Tracks s q.state) : configAdmitted q.state.cfg = true :=
    restSide_cfg hq.rest ▸ hc
  have h0 := h.envelopePass e (i := .c0) (by decide) hc (hvol _)
  have hvol1 : (envelopePass e .c0 p).state.vol .c1 = s.vol .c1 :=
    (envelopePass_vol e (by decide) (by decide) (admitted h)).trans (hvol _)
  have h1 := h0.envelopePass e (i := .c1) (by decide) hc hvol1
  have hvol3 : (envelopePass e .c1 (envelopePass e .c0 p)).state.vol .c3 = s.vol .c3 :=
    (envelopePass_vol e (by decide) (by decide) (admitted h0)).trans
      ((envelopePass_vol e (by decide) (by decide) (admitted h)).trans (hvol _))
  have h3 := h1.envelopePass e (i := .c3) (by decide) hc hvol3
  have hm3 := ((hm.envelopePass e (i := .c0) (by decide) (admitted h) (hvol _)).envelopePass e (i := .c1) (by decide)
    (admitted h0) hvol1).envelopePass e (i := .c3) (by decide) (admitted h1) hvol3
  have l0 := h3.lengthPass e .c0
  have l1 := l0.lengthPass e .c1
  have l2 := l1.lengthPass e .c2
  exact ⟨l2.lengthPass e .c3,
    (((hm3.lengthPass h3 e .c0).lengthPass l0 e .c1).lengthPass l1 e .c2).lengthPass l2 e .c3⟩

end Sys2Proof.Machine
end

section
/-! SUPPORT. What an ADVANCE that completes leaves, from the records before it (R200 to R212). -/

namespace Sys2Proof.Machine

/-! ### The turns of the three kinds -/

section Fires

variable {c p : Int} {n : Nat} (hf : Fires c p n)
include hf

/-- A timer that has fired stands within one period; one that has not stands where it stood. -/
theorem Fires.le {b : Int} (hc : c ≤ b) (hp : p ≤ b) : c + n * p ≤ b := by
  obtain ⟨_, hdue⟩ := hf
  cases n with
  | zero => simpa using hc
  | succ n =>
    have hlast := hdue n (Nat.lt_succ_self n)
    have hstep : c + ((n + 1 : Nat) : Int) * p = c + n * p + p := by push_cast; ring
    omega

end Fires

/-- The fuel of a loop is the number of firings (R215). -/
theorem Fires.eq_loopSteps {c p : Int} {n : Nat} (hp : 1 ≤ p) (hf : Fires c p n) : loopSteps c p = n :=
  (fires_loopSteps hp).unique hf

section EnvelopeAfter

variable {cfg : Config} (e : Int) (v : Envelope)

@[simp] theorem envelopeAfter_off : envelopeAfter cfg e false v = v := rfl

variable {v} (hc : configAdmitted cfg = true) (hp : v.period ≠ 0#3)
include hc hp

/-- The envelope of a channel that is on, by its number of firings (R206). -/
theorem envelopeAfter_fires {n : Nat} (hf : Fires (v.counter - e) (envReload cfg v.period) n) :
    envelopeAfter cfg e true v
      = { v with vol := stepVolume v.up v.vol n, counter := v.counter - e + n * envReload cfg v.period } := by
  rw [envelopeAfter, if_pos (by simpa using hp), hf.eq_loopSteps (one_le_envReload hc hp)]

/-- The turn of an envelope that runs ends with its counter above 0 (R206, R215). -/
theorem exists_envelopeAfter_fires : ∃ n, Fires (v.counter - e) (envReload cfg v.period) n
    ∧ (envelopeAfter cfg e true v).counter = v.counter - e + n * envReload cfg v.period := by
  have hf := fires_loopSteps (c := v.counter - e) (one_le_envReload hc hp)
  exact ⟨_, hf, congrArg Envelope.counter (envelopeAfter_fires e hc hp hf)⟩

end EnvelopeAfter

theorem voiceAfter_runs (e : Int) {v : Voice} (hon : v.on = true) (hlen : v.lenEnable = true) :
    voiceAfter e v = { v with lenCounter := v.lenCounter - e, on := decide (0 < v.lenCounter - e) } :=
  if_pos (by rw [hon, hlen]; rfl)

theorem voiceAfter_rests (e : Int) {v : Voice} (h : v.on = false ∨ v.lenEnable = false) : voiceAfter e v = v :=
  if_neg (by rcases h with h | h <;> simp [h])

@[simp] theorem voiceAfter_lenEnable (e : Int) (v : Voice) : (voiceAfter e v).lenEnable = v.lenEnable := by
  unfold voiceAfter
  split <;> rfl

/-- A length that still runs after its turn is above 0 (R208). -/
theorem lengthReports_pos {e : Int} {v : Voice} {n : Int} (hn : n ∈ lengthReports (voiceAfter e v)) : 1 ≤ n := by
  unfold lengthReports at hn
  split at hn
  · next hrun =>
    simp only [Bool.and_eq_true, voiceAfter_lenEnable] at hrun
    obtain ⟨hon, hlen⟩ := hrun
    rw [voiceAfter_runs e (voiceAfter_on_le hon) hlen, List.mem_singleton] at hn
    rw [voiceAfter_runs e (voiceAfter_on_le hon) hlen, decide_eq_true_eq] at hon
    dsimp only at hn
    omega
  · cases hn

theorem envelopeReports_pos {cfg : Config} (hc : configAdmitted cfg = true) {e : Int} {on : Bool} {v : Envelope}
    {n : Int} (hn : n ∈ envelopeReports on (envelopeAfter cfg e on v)) : 1 ≤ n := by
  unfold envelopeReports at hn
  split at hn
  · next hrun =>
    simp only [Bool.and_eq_true, envelopeAfter_period, decide_eq_true_eq] at hrun
    obtain ⟨rfl, hp⟩ := hrun
    obtain ⟨k, ⟨hpos, _⟩, hcounter⟩ := exists_envelopeAfter_fires e hc hp
    rw [List.mem_singleton, hcounter] at hn
    omega
  · cases hn

/-! ### The sweep turn's report -/

/-- The report of a sweep turn: of the counter that it leaves, when channel 0 is still on and sweeps (R212). -/
def sweepReports (s : State) : List Int :=
  if s.ch0.voice.on && decide (s.ch0.sweep.time ≠ 0#3) then [s.ch0.sweep.counter] else []

section SweepTurn

variable {e : Int} {s : State} {q : Slice} (h : SweepTurn e s q)
include h

theorem SweepTurn.cfg : q.state.cfg = s.cfg := restSide_cfg h.tracks.rest

/-- A channel other than 0 is as before the sweep turn. -/
theorem SweepTurn.voice_other {c : Chan} (hc : c ≠ .c0) : q.state.voice c = s.voice c := h.others.voice hc

/-- The sweep turn switches channel 0 off or leaves its voice alone (R204). -/
theorem SweepTurn.voice_c0 :
    q.state.ch0.voice = s.ch0.voice ∨ q.state.ch0.voice = { s.ch0.voice with on := false } := by
  cases h with
  | rests _ hq => subst hq; exact .inl rfl
  | inRange n _ _ _ _ hq =>
    subst hq
    exact .inl (sweptTurn_voice e s n .c0)
  | overflow n _ _ _ _ _ hq =>
    subst hq
    exact .inr (switchOff_voice .c0 .c0 _)

/-- The sweep turn reports nothing, or a counter above 0 (R212). -/
theorem SweepTurn.reports :
    (sweepReports q.state = [] ∧ q.state.nextEvent = noEvent)
      ∨ ∃ n : Int, 0 < n ∧ sweepReports q.state = [n] ∧ q.state.nextEvent = min noEvent n := by
  cases h with
  | rests hrest hq =>
    subst hq
    exact .inl ⟨if_neg (by rcases hrest with h | h <;> simp [sliceStart, h]), rfl⟩
  | inRange n hon htime hf _ hq =>
    subst hq
    obtain ⟨hpos, _⟩ := hf
    refine .inr ⟨_, hpos, ?_, ?_⟩
    · simp [sweepReports, sweptCh0, hon, htime]
    · simp [reportNext, sweptCh0]
  | overflow n _ _ _ _ _ hq =>
    subst hq
    refine .inl ⟨?_, ?_⟩
    · simp [sweepReports, switchOff, setOn, setVoice]
    · exact (commitOnBit_nextEvent ..).trans (sweptTurn_nextEvent e s n)

theorem SweepTurn.nextEvent : q.state.nextEvent = (sweepReports q.state).foldl min noEvent := by
  rcases h.reports with ⟨hreports, hnext⟩ | ⟨n, _, hreports, hnext⟩
  · rw [hreports, hnext]
    rfl
  · rw [hreports, hnext]
    rfl

theorem SweepTurn.reports_pos {n : Int} (hn : n ∈ sweepReports q.state) : 1 ≤ n := by
  rcases h.reports with ⟨hreports, _⟩ | ⟨m, hpos, hreports, _⟩
  · rw [hreports] at hn
    cases hn
  · rw [hreports, List.mem_singleton] at hn
    omega

end SweepTurn

/-! ### The whole operation -/

/-- From `s` to `t` an `ADVANCE` of `e` cycles completes: the sweep turn ends in the slice `q`, the other turns follow,
and `t` differs from what they leave by a send at most (R200, R209). -/
structure Advanced (e : Int) (s : State) (q : Slice) (t : State) : Prop where
  admitted : configAdmitted s.cfg = true
  sweep    : SweepTurn e s q
  side     : recordSide t = recordSide (timerPasses e q).state

theorem Advanced.of_advance {e : BitVec 28} {s t : State} (hc : configAdmitted s.cfg = true)
    (h : advance e s = .next t) : ∃ q, Advanced e.toNat s q t := by
  unfold advance at h
  split at h
  · cases h
  next hends =>
  refine ⟨_, hc, sweepPass_turn (Bool.eq_false_iff.mpr hends), ?_⟩
  rw [← advancePasses_eq]
  dsimp only at h
  split at h
  · exact send_recordSide h
  · cases h
    rfl

theorem Advanced.of_exec {e : BitVec 28} {s t : State} (h : exec (.advance e) s = .next t) :
    ∃ q, Advanced e.toNat s q t := by
  obtain ⟨hc, _, _, hrun⟩ := issue_eq_next.mp h
  exact Advanced.of_advance hc hrun

/-- The reports of the turns, in order (R212). -/
def turnReports (e : Int) (s : State) : List Int := sweepReports s ++ timerReports e s

section Advanced

variable {e : Int} {s t : State} {q : Slice} (h : Advanced e s q t)
include h

theorem Advanced.admitted_sweep : configAdmitted q.state.cfg = true := h.sweep.cfg ▸ h.admitted

theorem Advanced.channels : ChannelsKept (turned e q.state) t := by
  obtain ⟨hch, _⟩ := timerPasses_spec e q h.admitted_sweep
  obtain ⟨h0, h1, h2, h3⟩ := hch
  have hs := h.side
  exact ⟨(recordSide_ch0 hs).trans h0, (recordSide_ch1 hs).trans h1, (recordSide_ch2 hs).trans h2,
    (recordSide_ch3 hs).trans h3⟩

theorem Advanced.cfg : t.cfg = s.cfg :=
  (recordSide_cfg h.side).trans ((restSide_cfg (timerPasses_rest e q)).trans h.sweep.cfg)

theorem Advanced.ch0_turned : t.ch0 = { q.state.ch0 with
    voice := voiceAfter e q.state.ch0.voice, env := envelopeAfter s.cfg e q.state.ch0.voice.on s.ch0.env } := by
  obtain ⟨h0, _⟩ := h.channels
  have henv : q.state.ch0.env = s.ch0.env := Option.some.inj (h.sweep.env .c0)
  rw [h0, turned, h.sweep.cfg, henv]

theorem Advanced.ch1_turned : t.ch1 = { s.ch1 with
    voice := voiceAfter e s.ch1.voice, env := envelopeAfter s.cfg e s.ch1.voice.on s.ch1.env } := by
  obtain ⟨_, h1, _⟩ := h.channels
  obtain ⟨_, q1, _⟩ := h.sweep.others
  rw [h1, turned, h.sweep.cfg, q1 nofun]

theorem Advanced.ch2_turned : t.ch2 = { s.ch2 with voice := voiceAfter e s.ch2.voice } := by
  obtain ⟨_, _, h2, _⟩ := h.channels
  obtain ⟨_, _, q2, _⟩ := h.sweep.others
  rw [h2, turned, q2 nofun]

theorem Advanced.ch3_turned : t.ch3 = { s.ch3 with
    voice := voiceAfter e s.ch3.voice, env := envelopeAfter s.cfg e s.ch3.voice.on s.ch3.env } := by
  obtain ⟨_, _, _, h3⟩ := h.channels
  obtain ⟨_, _, _, q3⟩ := h.sweep.others
  rw [h3, turned, h.sweep.cfg, q3 nofun]

theorem Advanced.voice (c : Chan) : t.voice c = voiceAfter e (q.state.voice c) :=
  (h.channels.voice c).trans (turned_voice e q.state c)

theorem Advanced.env (c : Chan) : t.env c = (s.env c).map (envelopeAfter s.cfg e (q.state.voice c).on) := by
  rw [h.channels.env, turned_env, h.sweep.env, h.sweep.cfg]

theorem Advanced.nextEvent : t.nextEvent = (turnReports e q.state).foldl min noEvent := by
  obtain ⟨_, hnext, _⟩ := timerPasses_spec e q h.admitted_sweep
  rw [recordSide_nextEvent h.side, hnext, h.sweep.nextEvent, turnReports, List.foldl_append]

end Advanced

end Sys2Proof.Machine
end

section
/-! The counters and the next-event minimum (R212, R213, R215): what an update keeps of their bounds. -/

namespace Sys2Proof.Machine

/-! ### The bounds of one timer -/

/-- R215 for a voice: its length counter, which is at least 0 while the channel is on. -/
def VoiceBounds (cfg : Config) (v : Voice) : Prop :=
  -(2 ^ 28 : Int) ≤ v.lenCounter ∧ v.lenCounter ≤ cfg.clockSpeed ∧ (v.on = true → 0 ≤ v.lenCounter)

/-- R215 for an envelope. -/
def EnvelopeBounds (cfg : Config) (v : Envelope) : Prop := 0 ≤ v.counter ∧ v.counter ≤ cfg.clockSpeed

/-- R215 for the sweep, which is at least 0 while channel 0 is on. -/
def SweepBounds (cfg : Config) (on : Bool) (w : Sweep) : Prop :=
  -(2 ^ 28 : Int) ≤ w.counter ∧ w.counter ≤ cfg.clockSpeed ∧ (on = true → 0 ≤ w.counter)

/-- A counter that is at least 0 is within its bounds, whatever the on flag is. -/
theorem VoiceBounds.of_nonneg {cfg : Config} {v : Voice} (h0 : 0 ≤ v.lenCounter) (hb : v.lenCounter ≤ cfg.clockSpeed) :
    VoiceBounds cfg v := ⟨by omega, hb, fun _ => h0⟩

theorem SweepBounds.of_nonneg {cfg : Config} {on : Bool} {w : Sweep} (h0 : 0 ≤ w.counter)
    (hb : w.counter ≤ cfg.clockSpeed) : SweepBounds cfg on w := ⟨by omega, hb, fun _ => h0⟩

/-- Switching a channel off asks less of its counters. -/
theorem VoiceBounds.mono {cfg : Config} {v w : Voice} (h : VoiceBounds cfg v) (hlen : w.lenCounter = v.lenCounter)
    (hon : w.on = true → v.on = true) : VoiceBounds cfg w := by
  obtain ⟨hlow, hhigh, hpos⟩ := h
  unfold VoiceBounds
  rw [hlen]
  exact ⟨hlow, hhigh, fun hw => hpos (hon hw)⟩

theorem lenReload_bounds (cfg : Config) (i : Chan) (len : Nat) :
    0 ≤ lenReload cfg i len ∧ lenReload cfg i len ≤ cfg.clockSpeed := by
  have hmax : maxLen i - len ≤ lengthClockDivisor := by cases i <;> exact (Nat.sub_le ..).trans (by decide)
  have hle := Nat.div_le_of_le_mul (Nat.mul_le_mul_right cfg.clockSpeed hmax)
  exact ⟨Int.natCast_nonneg _, Int.ofNat_le.mpr hle⟩

theorem envReload_bounds (cfg : Config) (period : BitVec 3) :
    0 ≤ envReload cfg period ∧ envReload cfg period ≤ cfg.clockSpeed := by
  have hp : period.toNat ≤ 64 := by have := period.isLt; omega
  exact ⟨Int.natCast_nonneg _, Int.ofNat_le.mpr (Nat.div_le_of_le_mul (Nat.mul_le_mul_right cfg.clockSpeed hp))⟩

theorem sweepPeriod_le (cfg : Config) (time : BitVec 3) : sweepPeriod cfg time ≤ cfg.clockSpeed :=
  Int.ofNat_le.mpr (Nat.div_le_self ..)

theorem triggerSweepCounter_bounds (s : State) :
    0 ≤ triggerSweepCounter s ∧ triggerSweepCounter s ≤ s.cfg.clockSpeed := by
  unfold triggerSweepCounter
  split
  · exact ⟨sweepPeriod_nonneg .., sweepPeriod_le ..⟩
  · exact ⟨le_refl 0, Int.natCast_nonneg _⟩

section Elapsed

variable {cfg : Config} {e : Int} (he : 0 ≤ e)
include he

/-- A length turn of fewer than 2^28 cycles (R207, R208). -/
theorem VoiceBounds.after {v : Voice} (hlt : e < 2 ^ 28) (h : VoiceBounds cfg v) :
    VoiceBounds cfg (voiceAfter e v) := by
  obtain ⟨hlow, hhigh, hpos⟩ := h
  by_cases hrun : v.on = true ∧ v.lenEnable = true
  · obtain ⟨hon, hlen⟩ := hrun
    have h0 := hpos hon
    rw [voiceAfter_runs e hon hlen]
    refine ⟨?_, ?_, fun hw => ?_⟩ <;> simp only [decide_eq_true_eq] at * <;> omega
  · rw [voiceAfter_rests e (by simpa only [not_and_or, Bool.not_eq_true] using hrun)]
    exact ⟨hlow, hhigh, hpos⟩

/-- An envelope turn (R206). -/
theorem EnvelopeBounds.after (hc : configAdmitted cfg = true) {v : Envelope} (on : Bool) (h : EnvelopeBounds cfg v) :
    EnvelopeBounds cfg (envelopeAfter cfg e on v) := by
  obtain ⟨h0, hhigh⟩ := h
  by_cases hrun : on = true ∧ v.period ≠ 0#3
  · obtain ⟨rfl, hp⟩ := hrun
    obtain ⟨_, hreload⟩ := envReload_bounds cfg v.period
    obtain ⟨n, hf, hcounter⟩ := exists_envelopeAfter_fires e hc hp
    have hle := hf.le (b := cfg.clockSpeed) (by omega) hreload
    obtain ⟨hpos, _⟩ := hf
    unfold EnvelopeBounds
    rw [hcounter]
    exact ⟨le_of_lt hpos, hle⟩
  · rw [envelopeAfter, if_neg (by simpa using hrun)]
    exact ⟨h0, hhigh⟩

end Elapsed

/-! ### The bounds of the records -/

/-- R215 for every record of a state. -/
structure RecordBounds (s : State) : Prop where
  voice0    : VoiceBounds s.cfg s.ch0.voice
  voice1    : VoiceBounds s.cfg s.ch1.voice
  voice2    : VoiceBounds s.cfg s.ch2.voice
  voice3    : VoiceBounds s.cfg s.ch3.voice
  envelope0 : EnvelopeBounds s.cfg s.ch0.env
  envelope1 : EnvelopeBounds s.cfg s.ch1.env
  envelope3 : EnvelopeBounds s.cfg s.ch3.env
  sweep     : SweepBounds s.cfg s.ch0.voice.on s.ch0.sweep

theorem RecordBounds.voice {s : State} (h : RecordBounds s) (i : Chan) : VoiceBounds s.cfg (s.voice i) := by
  cases i with
  | c0 => exact h.voice0
  | c1 => exact h.voice1
  | c2 => exact h.voice2
  | c3 => exact h.voice3

theorem RecordBounds.envelope {s : State} (h : RecordBounds s) {i : Chan} {v : Envelope} (hv : s.env i = some v) :
    EnvelopeBounds s.cfg v := by
  cases i with
  | c0 => cases hv; exact h.envelope0
  | c1 => cases hv; exact h.envelope1
  | c2 => cases hv
  | c3 => cases hv; exact h.envelope3

/-- `CounterInv` is the bounds of the records and of the minimum. -/
theorem counterInv_iff {s : State} :
    CounterInv s ↔ RecordBounds s ∧ -(2 ^ 28 : Int) ≤ s.nextEvent ∧ s.nextEvent ≤ noEvent := by
  constructor
  · rintro ⟨hvoice, henv, hsweep, hnext⟩
    exact ⟨⟨hvoice .c0, hvoice .c1, hvoice .c2, hvoice .c3, henv .c0 _ rfl, henv .c1 _ rfl, henv .c3 _ rfl, hsweep⟩,
      hnext⟩
  · rintro ⟨h, hnext⟩
    exact ⟨h.voice, fun _ _ => h.envelope, h.sweep, hnext⟩

section RecordBounds

variable {s : State} (h : RecordBounds s)
include h

theorem RecordBounds.congr {t : State} (hcfg : t.cfg = s.cfg) (hch : ChannelsKept s t) : RecordBounds t := by
  obtain ⟨h0, h1, h2, h3⟩ := hch
  obtain ⟨v0, v1, v2, v3, e0, e1, e3, w⟩ := h
  constructor <;> simp only [hcfg, h0, h1, h2, h3] <;> assumption

/-- A register body keeps the bounds: a length write reloads its counter, the others move no counter (R122 to R129). -/
theorem RecordBounds.body {c : Chan} {body : State → State × Bool} (hb : RegisterBody c body) :
    RecordBounds (body s).1 := by
  have reloaded (i : Chan) (len : Nat) {v : Voice} (hv : v.lenCounter = lenReload s.cfg i len) :
      VoiceBounds s.cfg v := by
    obtain ⟨h0, hle⟩ := lenReload_bounds s.cfg i len
    exact .of_nonneg (hv ▸ h0) (hv ▸ hle)
  obtain ⟨v0, v1, v2, v3, e0, e1, e3, w⟩ := h
  cases hb
  case lenduty1 d => exact ⟨reloaded .c0 _ rfl, v1, v2, v3, e0, e1, e3, w⟩
  case lenduty2 d => exact ⟨v0, reloaded .c1 _ rfl, v2, v3, e0, e1, e3, w⟩
  case len3 d => exact ⟨v0, v1, reloaded .c2 _ rfl, v3, e0, e1, e3, w⟩
  case len4 d => exact ⟨v0, v1, v2, reloaded .c3 _ rfl, e0, e1, e3, w⟩
  case dacen3 d =>
    exact ⟨v0, v1, v2.mono rfl fun hon => (Bool.and_eq_true_iff.mp hon).1, v3, e0, e1, e3, w⟩
  all_goals exact ⟨v0, v1, v2, v3, e0, e1, e3, w⟩

/-- A trigger reloads every counter of its channel (R140 to R144). -/
theorem RecordBounds.trigger (c : Chan) : RecordBounds (triggerLocal c s) := by
  have reloaded (i : Chan) (len : Nat) {v : Voice} (hv : v.lenCounter = lenReload s.cfg i len) :
      VoiceBounds s.cfg v := by
    obtain ⟨h0, hle⟩ := lenReload_bounds s.cfg i len
    exact .of_nonneg (hv ▸ h0) (hv ▸ hle)
  have envelope (p : BitVec 3) {v : Envelope} (hv : v.counter = envReload s.cfg p) : EnvelopeBounds s.cfg v := by
    obtain ⟨h0, hle⟩ := envReload_bounds s.cfg p
    exact ⟨hv ▸ h0, hv ▸ hle⟩
  obtain ⟨v0, v1, v2, v3, e0, e1, e3, w⟩ := h
  cases c with
  | c0 =>
    obtain ⟨h0, hle⟩ := triggerSweepCounter_bounds s
    exact ⟨reloaded .c0 _ rfl, v1, v2, v3, envelope _ rfl, e1, e3, SweepBounds.of_nonneg h0 hle⟩
  | c1 => exact ⟨v0, reloaded .c1 _ rfl, v2, v3, e0, envelope _ rfl, e3, w⟩
  | c2 => exact ⟨v0, v1, reloaded .c2 _ rfl, v3, e0, e1, e3, w⟩
  | c3 => exact ⟨v0, v1, v2, reloaded .c3 _ rfl, e0, e1, envelope _ rfl, w⟩

theorem RecordBounds.localUpdate {c : Chan} {body : State → State × Bool} (hb : RegisterBody c body) :
    RecordBounds (localUpdate c (body s)) := by
  unfold Machine.localUpdate
  split
  · exact (h.body hb).trigger c
  · exact h.body hb

end RecordBounds

/-- The sweep turn keeps the bounds of its counter; with an overflow the channel goes off (R203, R204). -/
theorem SweepTurn.bounds {e : Int} {s : State} {q : Slice} (h : SweepTurn e s q) (he : 0 ≤ e) (hlt : e < 2 ^ 28)
    (hs : SweepBounds s.cfg s.ch0.voice.on s.ch0.sweep) :
    SweepBounds s.cfg q.state.ch0.voice.on q.state.ch0.sweep := by
  obtain ⟨hlow, hhigh, hpos⟩ := hs
  have hP := sweepPeriod_le s.cfg s.ch0.sweep.time
  have hP0 := sweepPeriod_nonneg s.cfg s.ch0.sweep.time
  cases h with
  | rests _ hq =>
    subst hq
    exact ⟨hlow, hhigh, hpos⟩
  | inRange n hon _ hf _ hq =>
    have hle := hf.le (b := s.cfg.clockSpeed) (by omega) hP
    obtain ⟨h0, _⟩ := hf
    subst hq
    change SweepBounds s.cfg _ (sweptTurn e s n).state.ch0.sweep
    rw [sweptTurn_ch0]
    exact .of_nonneg (le_of_lt h0) hle
  | overflow n hon _ hc _ _ hq =>
    have h0 := hpos hon
    have hn := Int.mul_nonneg (Int.natCast_nonneg n) hP0
    have hcounter : (sweptCh0 e s (n + 1)).sweep.counter
        = s.ch0.sweep.counter - e + n * sweepPeriod s.cfg s.ch0.sweep.time + sweepPeriod s.cfg s.ch0.sweep.time := by
      simp only [sweptCh0]
      push_cast
      ring
    have hoff : q.state.ch0.voice.on = false := by
      subst hq
      exact congrArg Voice.on (switchOff_voice .c0 .c0 _)
    have hsweep : q.state.ch0.sweep = (sweptCh0 e s (n + 1)).sweep := by
      subst hq
      simp [switchOff, setOn, setVoice, withCh0]
    rw [hoff, hsweep]
    unfold SweepBounds
    rw [hcounter]
    exact ⟨by omega, by omega, nofun⟩

section Advance

variable {e : Int} {s : State} (he : 0 ≤ e) (hlt : e < 2 ^ 28) (hs : RecordBounds s)
include he hlt hs

theorem SweepTurn.recordBounds {q : Slice} (h : SweepTurn e s q) : RecordBounds q.state := by
  have hsweep := h.bounds he hlt hs.sweep
  have henv0 : q.state.ch0.env = s.ch0.env := Option.some.inj (h.env .c0)
  have hvoice0 : VoiceBounds s.cfg q.state.ch0.voice := by
    rcases h.voice_c0 with hsame | hoff
    · exact hsame ▸ hs.voice0
    · rw [hoff]
      exact hs.voice0.mono rfl nofun
  obtain ⟨_, h1, h2, h3⟩ := h.others
  obtain ⟨_, v1, v2, v3, e0, e1, e3, _⟩ := hs
  constructor <;> simp only [h.cfg, h1, h2, h3, henv0, ne_eq, reduceCtorEq, not_false_eq_true] <;>
    assumption

theorem RecordBounds.turned (hc : configAdmitted s.cfg = true) : RecordBounds (turned e s) := by
  obtain ⟨v0, v1, v2, v3, e0, e1, e3, ⟨hlow, hhigh, hpos⟩⟩ := hs
  exact ⟨v0.after he hlt, v1.after he hlt, v2.after he hlt, v3.after he hlt, e0.after he hc _, e1.after he hc _,
    e3.after he hc _, ⟨hlow, hhigh, fun hon => hpos (voiceAfter_on_le hon)⟩⟩

/-- An `ADVANCE` that completes keeps the bounds of the records (R215). -/
theorem Advanced.recordBounds {t : State} {q : Slice} (h : Advanced e s q t) : RecordBounds t := by
  have hturned := (h.sweep.recordBounds he hlt hs).turned he hlt h.admitted_sweep
  exact hturned.congr (h.cfg.trans h.sweep.cfg.symm) h.channels

end Advance

end Sys2Proof.Machine
end

section
/-! The next-event minimum after an ADVANCE (R201, R212, R217). -/

namespace Sys2Proof.Machine

/-! ### Minima and the running counters -/

theorem le_foldl_min_iff {a : Int} (l : List Int) (n : Int) : a ≤ l.foldl min n ↔ a ≤ n ∧ ∀ m ∈ l, a ≤ m := by
  induction l generalizing n with
  | nil => simp
  | cons m l ih => rw [List.foldl_cons, ih, le_min_iff, List.forall_mem_cons, and_assoc]

theorem foldl_min_le_of_mem {m : Int} {l : List Int} (h : m ∈ l) (n : Int) : l.foldl min n ≤ m :=
  ((le_foldl_min_iff l n).mp (le_refl _)).2 m h

/-- A minimum depends on what is in the list, not on its order. -/
theorem foldl_min_congr {l l' : List Int} (h : ∀ m, m ∈ l ↔ m ∈ l') (n : Int) : l.foldl min n = l'.foldl min n := by
  have le {l l' : List Int} (h : ∀ m ∈ l', m ∈ l) : l.foldl min n ≤ l'.foldl min n :=
    (le_foldl_min_iff l' n).mpr ⟨foldl_min_le l n, fun m hm => foldl_min_le_of_mem (h m hm) n⟩
  exact le_antisymm (le fun m => (h m).mpr) (le fun m => (h m).mp)

theorem mem_runningCounters {c : Chan} {s : State} {n : Int} :
    n ∈ runningCounters c s ↔ (s.voice c).on = true
      ∧ (((s.voice c).lenEnable = true ∧ n = (s.voice c).lenCounter)
        ∨ (∃ v, s.env c = some v ∧ v.period ≠ 0#3 ∧ n = v.counter)
        ∨ (c = .c0 ∧ s.ch0.sweep.time ≠ 0#3 ∧ n = s.ch0.sweep.counter)) := by
  unfold runningCounters
  simp only [List.mem_ite_nil_right, List.mem_append, List.mem_singleton, or_assoc, and_assoc]
  refine and_congr_right fun _ => or_congr_right (or_congr_left ?_)
  cases s.env c <;> simp

/-! ### The reports are what runs -/

theorem mem_sweepReports {s : State} {n : Int} :
    n ∈ sweepReports s ↔ s.ch0.voice.on = true ∧ s.ch0.sweep.time ≠ 0#3 ∧ n = s.ch0.sweep.counter := by
  unfold sweepReports
  split <;> simp_all

theorem mem_envelopeReports {on : Bool} {w : Envelope} {n : Int} :
    n ∈ envelopeReports on w ↔ on = true ∧ w.period ≠ 0#3 ∧ n = w.counter := by
  unfold envelopeReports
  split <;> simp_all

theorem mem_lengthReports {w : Voice} {n : Int} :
    n ∈ lengthReports w ↔ w.on = true ∧ w.lenEnable = true ∧ n = w.lenCounter := by
  unfold lengthReports
  split <;> simp_all

theorem mem_timerReports {e : Int} {s : State} {n : Int} :
    n ∈ timerReports e s ↔
      (∃ c w, (s.voice c).on = true ∧ (turned e s).env c = some w ∧ w.period ≠ 0#3 ∧ n = w.counter)
        ∨ ∃ c, n ∈ lengthReports ((turned e s).voice c) := by
  unfold timerReports
  simp only [List.mem_append, mem_envelopeReports, List.mem_flatMap]
  refine or_congr ⟨?_, ?_⟩ ⟨fun ⟨c, _, hn⟩ => ⟨c, hn⟩, fun ⟨c, hn⟩ => ⟨c, by cases c <;> decide, hn⟩⟩
  · rintro ((h | h) | h)
    · exact ⟨.c0, _, h.1, rfl, h.2⟩
    · exact ⟨.c1, _, h.1, rfl, h.2⟩
    · exact ⟨.c3, _, h.1, rfl, h.2⟩
  · rintro ⟨c, w, hon, henv, hrun⟩
    cases c with
    | c0 => cases henv; exact .inl (.inl ⟨hon, hrun⟩)
    | c1 => cases henv; exact .inl (.inr ⟨hon, hrun⟩)
    | c2 => cases henv
    | c3 => cases henv; exact .inr ⟨hon, hrun⟩

section Advanced

variable {e : Int} {s t : State} {q : Slice} (h : Advanced e s q t)
include h

theorem Advanced.reports_pos {n : Int} (hn : n ∈ turnReports e q.state) : 1 ≤ n := by
  rcases List.mem_append.mp hn with hn | hn
  · exact h.sweep.reports_pos hn
  rcases mem_timerReports.mp hn with ⟨c, w, hon, henv, hrun⟩ | ⟨c, hn⟩
  · rw [turned_env, Option.map_eq_some_iff] at henv
    obtain ⟨v, _, rfl⟩ := henv
    exact envelopeReports_pos h.admitted_sweep (mem_envelopeReports.mpr ⟨hon, hrun⟩)
  · rw [turned_voice] at hn
    exact lengthReports_pos hn

/-- Every timer that runs after the operation was reported (R212). -/
theorem Advanced.running_reported {c : Chan} {n : Int} (hn : n ∈ runningCounters c t) : n ∈ turnReports e q.state := by
  have hch := h.channels
  obtain ⟨hon, hrun⟩ := mem_runningCounters.mp hn
  rw [hch.voice] at hon hrun
  have hbefore : (q.state.voice c).on = true := voiceAfter_on_le (turned_voice e q.state c ▸ hon)
  rcases hrun with ⟨hlen, hn⟩ | ⟨v, henv, hperiod, hn⟩ | ⟨rfl, htime, hn⟩
  · exact List.mem_append.mpr (.inr (mem_timerReports.mpr (.inr ⟨c, mem_lengthReports.mpr ⟨hon, hlen, hn⟩⟩)))
  · rw [hch.env] at henv
    exact List.mem_append.mpr (.inr (mem_timerReports.mpr (.inl ⟨c, v, hbefore, henv, hperiod, hn⟩)))
  · obtain ⟨h0, _⟩ := hch
    rw [h0] at htime hn
    exact List.mem_append.mpr (.inl (mem_sweepReports.mpr ⟨hbefore, htime, hn⟩))

theorem Advanced.nextEvent_le {c : Chan} {n : Int} (hn : n ∈ runningCounters c t) : t.nextEvent ≤ n := by
  rw [h.nextEvent]
  exact foldl_min_le_of_mem (h.running_reported hn) _

theorem Advanced.nextEvent_bounds : 1 ≤ t.nextEvent ∧ t.nextEvent ≤ noEvent := by
  rw [h.nextEvent]
  exact ⟨(le_foldl_min_iff _ _).mpr ⟨by decide, fun n hn => h.reports_pos hn⟩, foldl_min_le _ _⟩

end Advanced

end Sys2Proof.Machine
end

section
/-! The bounds of the counters and of the next-event minimum (R212, R213, R215), kept by every step. -/

namespace Sys2Proof.Machine

/-- Both invariants are carried from `s` to `t`. -/
def KeepsTimers (s t : State) : Prop := (CounterInv s → CounterInv t) ∧ (NextEventInv s → NextEventInv t)

theorem KeepsTimers.trans {s t u : State} (h : KeepsTimers s t) (h' : KeepsTimers t u) : KeepsTimers s u :=
  ⟨h'.1 ∘ h.1, h'.2 ∘ h.2⟩

/-! ### Updates of no timer -/

/-- The parts of the state that the two invariants read are the same in `s` and `t`: no pan is one of them. -/
structure TimersKept (s t : State) : Prop where
  cfg        : t.cfg = s.cfg
  on         : ∀ c, (t.voice c).on = (s.voice c).on
  lenEnable  : ∀ c, (t.voice c).lenEnable = (s.voice c).lenEnable
  lenCounter : ∀ c, (t.voice c).lenCounter = (s.voice c).lenCounter
  env        : ∀ c, t.env c = s.env c
  sweep      : t.ch0.sweep = s.ch0.sweep
  nextEvent  : t.nextEvent = s.nextEvent

section TimersKept

variable {s t : State}

theorem TimersKept.keeps (h : TimersKept s t) : KeepsTimers s t := by
  obtain ⟨hcfg, hon, hen, hlen, henv, hsweep, hnext⟩ := h
  refine ⟨fun hs => ?_, fun hs c n hn => ?_⟩
  · have h0 : t.ch0.voice.on = s.ch0.voice.on := hon .c0
    simpa only [CounterInv, hon, hlen, h0, hcfg, henv, hsweep, hnext] using hs
  · rw [hnext]
    refine hs c n (mem_runningCounters.mpr ?_)
    simpa only [hon, hen, hlen, henv, hsweep] using mem_runningCounters.mp hn

theorem keepsTimers_of_channels (hcfg : t.cfg = s.cfg) (hch : ChannelsKept s t) (hnext : t.nextEvent = s.nextEvent) :
    KeepsTimers s t := by
  have hvoice := hch.voice
  have henv := hch.env
  obtain ⟨h0, _⟩ := hch
  exact TimersKept.keeps ⟨hcfg, fun c => by rw [hvoice], fun c => by rw [hvoice], fun c => by rw [hvoice], henv,
    by rw [h0], hnext⟩

theorem keepsTimers_of_recordSide (h : recordSide t = recordSide s) : KeepsTimers s t :=
  keepsTimers_of_channels (recordSide_cfg h) (ledger_channels (ledger_of_recordSide h)) (recordSide_nextEvent h)

/-- An update of the rest of the state. -/
theorem keepsTimers_of_rest (hcfg : t.cfg = s.cfg := by rfl) (h0 : t.ch0 = s.ch0 := by rfl)
    (h1 : t.ch1 = s.ch1 := by rfl) (h2 : t.ch2 = s.ch2 := by rfl) (h3 : t.ch3 = s.ch3 := by rfl) (hnext : t.nextEvent = s.nextEvent := by rfl) :
    KeepsTimers s t := keepsTimers_of_channels hcfg ⟨h0, h1, h2, h3⟩ hnext

theorem KeepsTimers.refl (s : State) : KeepsTimers s s := ⟨id, id⟩

theorem KeepsTimers.commit (f : Field) (v : Word) (h : KeepsTimers s t) : KeepsTimers s (commit f v t) :=
  h.trans (keepsTimers_of_channels (commit_cfg ..) (by simp [ChannelsKept]) (commit_nextEvent ..))

end TimersKept

/-! ### A channel write (R121) -/

/-- No other channel's timers move. -/
theorem OtherChannelsKept.runningCounters {c j : Chan} {s t : State} (h : OtherChannelsKept c s t) (hj : j ≠ c) :
    runningCounters j t = runningCounters j s := by
  have hvoice := h.voice hj
  obtain ⟨h0, h1, _, h3⟩ := h
  cases j with
  | c0 => simp only [Machine.runningCounters, hvoice, State.env, h0 hj.symm]
  | c1 => simp [Machine.runningCounters, hvoice, State.env, h1 hj.symm]
  | c2 => simp [Machine.runningCounters, hvoice, State.env]
  | c3 => simp [Machine.runningCounters, hvoice, State.env, h3 hj.symm]

theorem RecordBounds.runningCounters_nonneg {s : State} (h : RecordBounds s) {c : Chan} {n : Int}
    (hn : n ∈ runningCounters c s) : 0 ≤ n := by
  obtain ⟨hon, ⟨_, rfl⟩ | ⟨v, hv, _, rfl⟩ | ⟨rfl, _, rfl⟩⟩ := mem_runningCounters.mp hn
  · obtain ⟨_, _, hpos⟩ := h.voice c
    exact hpos hon
  · exact (h.envelope hv).1
  · obtain ⟨_, _, hpos⟩ := h.sweep
    exact hpos hon

theorem channelUpdate_keepsTimers {c : Chan} {body : State → State × Bool} (hb : RegisterBody c body) (s : State) :
    KeepsTimers s (channelUpdate c (s.voice c).on (body s)) := by
  have hnext := channelUpdate_nextEvent hb (s.voice c).on s
  refine ⟨fun hs => ?_, fun hs j n hn => ?_⟩
  · obtain ⟨hrecords, hlow, hhigh⟩ := counterInv_iff.mp hs
    have hcfg : (channelUpdate c (s.voice c).on (body s)).cfg = (localUpdate c (body s)).cfg :=
      ledger_cfg (channelUpdate_ledger hb _ s)
    have hbounds := (hrecords.localUpdate hb).congr hcfg (channelUpdate_records ..)
    refine counterInv_iff.mpr ⟨hbounds, ?_, ?_⟩
    · rw [hnext, le_foldl_min_iff]
      exact ⟨hlow, fun n hn => le_trans (by decide) (hbounds.runningCounters_nonneg hn)⟩
    · rw [hnext]
      exact (foldl_min_le _ _).trans hhigh
  · rw [hnext]
    by_cases hj : j = c
    · subst hj
      exact foldl_min_le_of_mem hn _
    · rw [(channelUpdate_others hb (s.voice c).on s).runningCounters hj] at hn
      exact (foldl_min_le _ _).trans (hs j n hn)

theorem WriteRule.keepsTimers {i : Instr} {r : State → Result} (hr : WriteRule i r) {s t : State}
    (h : r s = .next t) : KeepsTimers s t := by
  cases hr with
  | register hw =>
    exact (channelUpdate_keepsTimers hw.registerBody s).trans (keepsTimers_of_recordSide (channelWrite_next h))
  | mastervol d =>
    have hbyte : KeepsTimers s { s with masterVolume := d } := keepsTimers_of_rest
    exact (hbyte.commit _ _).trans (keepsTimers_of_recordSide (send_recordSide h))
  | routing d =>
    have hrouted : TimersKept s (routed d s) :=
      ⟨rfl, fun c => by rw [routed_voice], fun c => by rw [routed_voice], fun c => by rw [routed_voice],
        fun c => by cases c <;> rfl, rfl, rfl⟩
    have hledger := routingUpdate_ledger d s
    have hcommits : KeepsTimers (routed d s) (routingUpdate d s) :=
      keepsTimers_of_channels (ledger_cfg hledger) (ledger_channels hledger) (by simp [routingUpdate, routePan, routed])
    exact (hrouted.keeps.trans hcommits).trans (keepsTimers_of_recordSide (send_recordSide h))
  | wave j d =>
    cases h
    exact keepsTimers_of_rest
  | nothing =>
    cases h
    exact .refl s

/-! ### Tasks and operations -/

theorem dispatch_keepsTimers {a d : Byte} {s t : State} (h : dispatch a d s = .next t) : KeepsTimers s t := by
  obtain ⟨r, hr, h⟩ := dispatch_rule h
  exact hr.keepsTimers h

theorem runTask_keepsTimers {k : Task} {s t : State} (h : runTask k s = .next t) : KeepsTimers s t := by
  cases k with
  | bulk a => exact dispatch_keepsTimers h
  | retrigger i prev =>
    simp only [runTask] at h
    split at h
    · exact dispatch_keepsTimers h
    · cases h
      exact .refl s
  | unmuteWord =>
    simp only [runTask] at h
    split at h
    · exact keepsTimers_of_recordSide (enqueue_recordSide h)
    · cases h
      exact .refl s

theorem runTasks_keepsTimers {ks : List Task} {s t : State} (h : runTasks ks s = .next t) : KeepsTimers s t :=
  runTasks_closed .refl .trans (fun _ _ => keepsTimers_of_rest) (fun _ _ _ _ hrun => runTask_keepsTimers hrun) h

theorem resync_keepsTimers {after : List Task} {s t : State} (h : resync after s = .next t) : KeepsTimers s t :=
  ((KeepsTimers.refl s).commit _ _).trans (runTasks_keepsTimers h)

theorem refresh_keepsTimers {after : List Task} {s t : State} (h : refresh after s = .next t) : KeepsTimers s t := by
  have hmaster : KeepsTimers s { s with masterEnable := masterOf (s.ioByte 0x26#8) } := keepsTimers_of_rest
  exact ((hmaster.commit _ _).commit _ _).trans (resync_keepsTimers h)

/-- An `ADVANCE` that completes: the sweep's loop has ended (R213, R215). -/
theorem Advanced.keepsTimers {e : BitVec 28} {s t : State} {q : Slice} (h : Advanced e.toNat s q t) :
    KeepsTimers s t := by
  have he : (e.toNat : Int) < 2 ^ 28 := by exact_mod_cast e.isLt
  obtain ⟨hlow, hhigh⟩ := h.nextEvent_bounds
  refine ⟨fun hs => ?_, fun _ c n hn => h.nextEvent_le hn⟩
  obtain ⟨hrecords, _⟩ := counterInv_iff.mp hs
  exact counterInv_iff.mpr ⟨h.recordBounds (Int.natCast_nonneg _) he hrecords, by omega, hhigh⟩

theorem init_keepsTimers (s : State) : KeepsTimers s (initState s) := by
  refine ⟨fun _ => counterInv_iff.mpr ⟨?_, by simp only [initState]; decide⟩, fun _ c n hn => ?_⟩
  · constructor <;> simp [initState, VoiceBounds, EnvelopeBounds, SweepBounds, Voice.reset, Envelope.reset, Sweep.reset]
  · obtain ⟨hon, _⟩ := mem_runningCounters.mp hn
    cases c <;> cases hon

theorem muteRule_keepsTimers {s t : State} (h : muteRule s = .next t) : KeepsTimers s t := by
  unfold muteRule at h
  split at h
  · cases h
    exact .refl s
  obtain ⟨u, hword, h⟩ := andThen_eq_next.mp h
  cases h
  refine KeepsTimers.trans (t := u) ?_ keepsTimers_of_rest
  split at hword
  · exact keepsTimers_of_recordSide (enqueue_recordSide hword)
  · cases hword
    exact .refl s

theorem OperationRule.keepsTimers {i : Instr} {r : State → Result} (hr : OperationRule i r) {s t : State}
    (hc : configAdmitted s.cfg = true) (h : r s = .next t) : KeepsTimers s t := by
  cases hr with
  | write hw => exact hw.keepsTimers h
  | masteren d =>
    have hbit (b : Bool) : KeepsTimers s { s with masterEnable := b } := keepsTimers_of_rest
    unfold writeMasteren at h
    split at h
    · exact ((hbit false).commit _ _).trans (keepsTimers_of_recordSide (send_recordSide h))
    split at h
    · exact (hbit true).trans (resync_keepsTimers h)
    · cases h
      exact .refl s
  | advance e =>
    obtain ⟨_, hadvanced⟩ := Advanced.of_advance hc h
    exact hadvanced.keepsTimers
  | getnext =>
    cases h
    exact keepsTimers_of_rest
  | vblank =>
    cases h
    have hflip : KeepsTimers s { s with producerFlip := !s.producerFlip } := keepsTimers_of_rest
    exact hflip.commit _ _
  | refresh => exact refresh_keepsTimers h
  | mute => exact muteRule_keepsTimers h
  | unmute =>
    unfold unmuteRule at h
    split at h
    · have hopened : KeepsTimers s { s with target := .real, muted := false } := keepsTimers_of_rest
      exact hopened.trans (refresh_keepsTimers h)
    · cases h
      exact .refl s
  | setenabled b =>
    have hgate : KeepsTimers s { s with soundEnabled := b } := keepsTimers_of_rest
    unfold setEnabled at h
    split at h
    · exact hgate.trans (refresh_keepsTimers h)
    · cases h
      exact hgate
  | setsync b =>
    cases h
    have hmode : KeepsTimers s { s with accurateSync := b } := keepsTimers_of_rest
    exact hmode.commit _ _

/-! ### Every step -/

theorem exec_keepsTimers {i : Instr} (hi : i.interface = .operation) {s t : State} (hc : configAdmitted s.cfg = true)
    (h : exec i s = .next t) : KeepsTimers s t := by
  by_cases hinit : i = .init
  · subst hinit
    change execInit s = .next t at h
    unfold execInit at h
    split at h
    · cases h
    split at h
    · cases h
    split at h
    · cases h
    · cases h
      exact init_keepsTimers s
  · obtain ⟨r, hr, _, h⟩ := exec_operation hi hinit h
    exact hr.keepsTimers hc h

theorem resume_keepsTimers {g : Held} {s t : State} (h : resume g s = .next t) : KeepsTimers s t := by
  unfold resume at h
  obtain ⟨u, hawait, h⟩ := andThen_eq_next.mp h
  refine (keepsTimers_of_recordSide (await_recordSide hawait)).trans ?_
  split at h
  · cases h
    exact keepsTimers_of_rest
  · exact runTasks_keepsTimers h

/-- The consumer's opportunity after the host's action is taken. -/
theorem fetched_keepsTimers {rest : List HostAction} {s u : State}
    (h : consumerTurn { s with stream := rest } = .next u) : KeepsTimers s u :=
  have htaken : KeepsTimers s { s with stream := rest } := keepsTimers_of_rest
  htaken.trans (keepsTimers_of_recordSide (recordSide_of_producerSide (consumerTurn_producerSide h)))

theorem hostStep_keepsTimers {s t : State} (hc : configAdmitted s.cfg = true) (h : hostStep s = .next t) :
    KeepsTimers s t := by
  unfold hostStep at h
  split at h
  · exact keepsTimers_of_recordSide (recordSide_of_producerSide (consumerTurn_producerSide h))
  · next a d rest _ =>
    obtain ⟨u, hturn, h⟩ := andThen_eq_next.mp h
    refine (fetched_keepsTimers hturn).trans ?_
    unfold hostStore at h
    split at h
    · cases h
      exact keepsTimers_of_rest
    · cases h
  · next w rest _ =>
    obtain ⟨u, hturn, h⟩ := andThen_eq_next.mp h
    refine (fetched_keepsTimers hturn).trans ?_
    have hcfg := recordSide_cfg (recordSide_of_producerSide (consumerTurn_producerSide hturn))
    unfold runWord at h
    split at h
    · next i hi =>
      obtain ⟨hoperation, _⟩ := encode_of_decodeOperation hi
      exact exec_keepsTimers hoperation (by rw [hcfg]; exact hc) h
    · cases h

/-- Settles O8: register writes load counters within their bounds and report those that run, and an `ADVANCE` that ends
leaves every running counter above 0 and reported. -/
theorem stepKeepsTheCounterBounds : Obligations.StepKeepsTheCounterBounds := by
  intro s t h
  have hc := step_admitted h
  change nextAction s = .next t at h
  unfold nextAction at h
  split at h
  · cases h
  split at h
  · split at h
    · exact resume_keepsTimers h
    · exact hostStep_keepsTimers hc h
  · exact hostStep_keepsTimers hc h

end Sys2Proof.Machine
end

section
/-! The minimum that an ADVANCE reports (R201, R212, R217). -/

namespace Sys2Proof.Machine

/-! ### The sweep of channel 0: in range or not -/

/-- A step from 11 bits leaves at most 12 (R204). -/
theorem sweptAfter_succ_le {s : State} {n : Nat} (h : sweptAfter s n ≤ 0x7FF) : sweptAfter s (n + 1) ≤ 0xFFE := by
  have hshift := Nat.shiftRight_le (sweptAfter s n) s.ch0.sweep.shift.toNat
  rw [sweptAfter_succ]
  split
  · exact (Nat.sub_le ..).trans (h.trans (by decide))
  · omega

/-- The stored frequency is exact below 12 bits. -/
theorem ofNat_sweptAfter {s : State} {n : Nat} (h : sweptAfter s n ≤ 0xFFF) :
    (BitVec.ofNat 12 (sweptAfter s n)).toNat = sweptAfter s n := by
  rw [BitVec.toNat_ofNat, Nat.mod_eq_of_lt (by omega)]

section Stored

variable {s : State} (hfreq : s.ch0.freq.toNat ≤ 0x7FF) {n : Nat} (hr : ∀ k, 1 ≤ k → k ≤ n → sweptAfter s k ≤ 0x7FF)
include hfreq hr

theorem sweptAfter_le : sweptAfter s n ≤ 0x7FF := by
  cases n with
  | zero => exact hfreq
  | succ n => exact hr (n + 1) (Nat.le_add_left 1 n) (le_refl _)

theorem sweptCh0_freq (e : Int) : (sweptCh0 e s n).freq.toNat ≤ 0x7FF := by
  have hle := sweptAfter_le hfreq hr
  change (BitVec.ofNat 12 (sweptAfter s n)).toNat ≤ _
  rwa [ofNat_sweptAfter (by omega)]

theorem sweptCh0_freq_overflow (e : Int) (ho : 0x7FF < sweptAfter s (n + 1)) :
    0x7FF < (sweptCh0 e s (n + 1)).freq.toNat := by
  have hle := sweptAfter_succ_le (sweptAfter_le hfreq hr)
  change _ < (BitVec.ofNat 12 (sweptAfter s (n + 1))).toNat
  rwa [ofNat_sweptAfter (by omega)]

end Stored

/-- The record of channel 0 that the sweep turn leaves when it overflows (R204). -/
theorem switchOff_withCh0_ch0 (a : SweptSquare) (s : State) (b : Bool) :
    (switchOff .c0 ⟨withCh0 a s, b⟩).state.ch0 = { a with voice := { a.voice with on := false } } := by
  simp [switchOff, setOn, setVoice, withCh0, State.voice]

/-- From 11 bits the stored frequency tells whether channel 0 is still on after the sweep turn (R203, R204). -/
theorem SweepTurn.on_iff {e : Int} {s : State} {q : Slice} (h : SweepTurn e s q)
    (hfreq : s.ch0.voice.on = true → s.ch0.freq.toNat ≤ 0x7FF) :
    q.state.ch0.voice.on = true ↔ s.ch0.voice.on = true ∧ q.state.ch0.freq.toNat ≤ 0x7FF := by
  cases h with
  | rests _ hq =>
    subst hq
    exact ⟨fun hon => ⟨hon, hfreq hon⟩, fun ⟨hon, _⟩ => hon⟩
  | inRange n hon _ _ hr hq =>
    have hch0 : q.state.ch0 = sweptCh0 e s n := by
      subst hq
      exact sweptTurn_ch0 e s n
    rw [hch0]
    exact ⟨fun _ => ⟨hon, sweptCh0_freq (hfreq hon) hr e⟩, fun _ => hon⟩
  | overflow n hon _ _ hr ho hq =>
    subst hq
    rw [switchOff_withCh0_ch0]
    have hover := sweptCh0_freq_overflow (hfreq hon) hr e ho
    exact ⟨nofun, fun ⟨_, hle⟩ => absurd hover (Nat.not_lt.mpr hle)⟩

/-- The fields of channel 0 that a sweep turn may change (R203, R204). -/
theorem SweepTurn.ch0_frame {e : Int} {s : State} {q : Slice} (h : SweepTurn e s q) :
    q.state.ch0 = { s.ch0 with
      voice := { s.ch0.voice with on := q.state.ch0.voice.on }
      sweep := { s.ch0.sweep with counter := q.state.ch0.sweep.counter }, freq := q.state.ch0.freq } := by
  cases h with
  | rests _ hq =>
    subst hq
    rfl
  | inRange n _ _ _ _ hq =>
    have hch0 : q.state.ch0 = sweptCh0 e s n := by
      subst hq
      exact sweptTurn_ch0 e s n
    rw [hch0]
    rfl
  | overflow n _ _ _ _ _ hq =>
    subst hq
    rw [switchOff_withCh0_ch0]
    rfl

/-! ### The reports, as the statement lists them -/

theorem flatMap_if_singleton {α β : Type} (p : α → Bool) (f : α → β) (l : List α) :
    l.flatMap (fun a => if p a then [f a] else []) = (l.filter p).map f := by
  induction l with
  | nil => rfl
  | cons a l ih =>
    rw [List.flatMap_cons, List.filter_cons, ih]
    split <;> rfl

section Advanced

variable {e : Int} {s t : State} {q : Slice} (h : Advanced e s q t)
include h

theorem Advanced.reports_eq (hfreq : s.ch0.voice.on = true → s.ch0.freq.toNat ≤ 0x7FF) :
    turnReports e q.state = advanceReports s t := by
  obtain ⟨h0, h1, h2, h3⟩ := h.channels
  obtain ⟨_, q1, q2, q3⟩ := h.sweep.others
  have henv0 : s.ch0.env = q.state.ch0.env := Option.some.inj (h.sweep.env .c0).symm
  have hch1 : s.ch1 = q.state.ch1 := (q1 nofun).symm
  have hch3 : s.ch3 = q.state.ch3 := (q3 nofun).symm
  have hon := h.sweep.on_iff hfreq
  have hfreq' : t.ch0.freq = q.state.ch0.freq := by rw [h0]; rfl
  have htime : s.ch0.sweep.time = q.state.ch0.sweep.time := by rw [h.sweep.ch0_frame]
  have hlengths : ([Chan.c0, .c1, .c2, .c3].flatMap fun c => lengthReports ((turned e q.state).voice c))
      = ([Chan.c0, .c1, .c2, .c3].filter fun c => (t.voice c).on && (t.voice c).lenEnable).map
        fun c => (t.voice c).lenCounter := by
    rw [← flatMap_if_singleton]
    simp only [h.channels.voice]
    rfl
  unfold turnReports timerReports advanceReports
  rw [hlengths, hfreq', hch1, hch3, henv0, htime, h0, h1, h3]
  simp only [← hon, sweepReports, envelopeReports, Bool.and_eq_true, decide_eq_true_eq, ← List.append_assoc]
  cases q.state.ch0.voice.on <;> simp [turned]

/-- With every channel off before it, an `ADVANCE` reports nothing. -/
theorem Advanced.reports_eq_nil (hoff : ∀ c, (s.voice c).on = false) : turnReports e q.state = [] := by
  have hstays (c : Chan) : (q.state.voice c).on = false :=
    Bool.eq_false_iff.mpr fun hon => Bool.false_ne_true ((hoff c).symm.trans (h.sweep.tracks.off c hon))
  refine List.eq_nil_iff_forall_not_mem.mpr fun n hn => ?_
  rcases List.mem_append.mp hn with hn | hn
  · obtain ⟨hon, _⟩ := mem_sweepReports.mp hn
    exact Bool.false_ne_true ((hstays .c0).symm.trans hon)
  rcases mem_timerReports.mp hn with ⟨c, _, hon, _⟩ | ⟨c, hn⟩
  · exact Bool.false_ne_true ((hstays c).symm.trans hon)
  · obtain ⟨hon, _⟩ := mem_lengthReports.mp hn
    rw [turned_voice] at hon
    exact Bool.false_ne_true ((hstays c).symm.trans (voiceAfter_on_le hon))

end Advanced

/-- Settles O44: the minimum is folded over the reports, each of them above 0, and every timer that still runs made
one. -/
theorem advanceReportsTheNextEvent : Obligations.AdvanceReportsTheNextEvent := by
  intro s t e ht
  obtain ⟨q, h⟩ := Advanced.of_exec ht
  obtain ⟨hlow, hhigh⟩ := h.nextEvent_bounds
  refine ⟨hlow, hhigh, fun c n hn => h.nextEvent_le hn, fun hoff => ?_, fun hfreq => ?_⟩
  · rw [h.nextEvent, h.reports_eq_nil hoff]
    rfl
  · rw [h.nextEvent, h.reports_eq hfreq]

end Sys2Proof.Machine
end

section
/-! What an ADVANCE puts out, commits, sends and leaves alone (R204, R208 to R211). -/

namespace Sys2Proof.Machine

/-- The sweep turn of a channel 0 that is off or has no sweep does nothing (R202). -/
theorem SweepTurn.eq_sliceStart {e : Int} {s : State} {q : Slice} (h : SweepTurn e s q)
    (hrest : s.ch0.voice.on = false ∨ s.ch0.sweep.time = 0#3) : q = sliceStart s := by
  cases h with
  | rests _ hq => exact hq
  | inRange _ hon htime | overflow _ hon htime => exact absurd hrest (by simp [hon, htime])

/-! ### The events (R305) -/

/-- A channel that is on, then in the middle on or off, and off or on only if it was on in the middle, goes off once. -/
theorem deactivation_append (i : Chan) {u v w : Voice} (huv : v.on = true → u.on = true)
    (hvw : w.on = true → v.on = true) : deactivation i u v ++ deactivation i v w = deactivation i u w := by
  unfold deactivation
  cases hu : u.on <;> cases hv : v.on <;> cases hw : w.on <;> simp_all

theorem deactivation_same (i : Chan) (v : Voice) : deactivation i v v = [] := by
  unfold deactivation
  cases v.on <;> rfl

/-- The deactivations from `s` to `t`, in channel order. -/
def deactivations (s t : State) : List HostEvent :=
  [Chan.c0, .c1, .c2, .c3].flatMap fun c => deactivation c (s.voice c) (t.voice c)

theorem deactivations_eq (s t : State) : deactivations s t
    = ([Chan.c0, .c1, .c2, .c3].filter fun c => (s.voice c).on && !(t.voice c).on).map .deactivate :=
  flatMap_if_singleton ..

theorem SweepTurn.events {e : Int} {s : State} {q : Slice} (h : SweepTurn e s q) :
    q.state.events = s.events ++ deactivation .c0 s.ch0.voice q.state.ch0.voice := by
  cases h with
  | rests _ hq =>
    subst hq
    simp [sliceStart, deactivation_same]
  | inRange n _ _ _ _ hq =>
    have hvoice : q.state.ch0.voice = s.ch0.voice := by
      subst hq
      exact sweptTurn_voice e s n .c0
    rw [hvoice, deactivation_same, List.append_nil]
    subst hq
    exact sweptTurn_events e s n
  | overflow n hon _ _ _ _ hq =>
    subst hq
    rw [switchOff_withCh0_ch0, deactivation, if_pos (by simp [hon])]
    simp [switchOff, setOn, signalDeactivate, emit, withCh0]

section Advanced

variable {e : Int} {s t : State} {q : Slice} (h : Advanced e s q t)
include h

/-- The events of the passes are the deactivations (R204, R208). -/
theorem Advanced.passes_events : (timerPasses e q).state.events = s.events ++ deactivations s t := by
  obtain ⟨_, _, hevents, _⟩ := timerPasses_spec e q h.admitted_sweep
  have hother {c : Chan} (hc : c ≠ .c0) : deactivation c (q.state.voice c) (voiceAfter e (q.state.voice c))
      = deactivation c (s.voice c) (t.voice c) := by rw [h.voice, h.sweep.voice_other hc]
  have hzero : deactivation .c0 s.ch0.voice q.state.ch0.voice
      ++ deactivation .c0 (q.state.voice .c0) (voiceAfter e (q.state.voice .c0))
      = deactivation .c0 (s.voice .c0) (t.voice .c0) := by
    rw [h.voice]
    exact deactivation_append .c0 (h.sweep.tracks.off .c0) voiceAfter_on_le
  rw [hevents, h.sweep.events, deactivations]
  simp only [List.flatMap_cons, List.flatMap_nil, List.append_nil, hother (c := .c1) nofun, hother (c := .c2) nofun,
    hother (c := .c3) nofun, ← hzero, List.append_assoc]

theorem Advanced.output : t.events.filter (fun x => !x.isDiag)
    = s.events.filter (fun x => !x.isDiag) ++ deactivations s t := by
  rw [recordSide_events h.side, h.passes_events, List.filter_append, deactivations_eq]
  congr 1
  exact List.filter_eq_self.mpr fun x hx => by
    obtain ⟨c, _, rfl⟩ := List.mem_map.mp hx
    rfl

end Advanced

/-! ### The mark of the sweep turn (R203, R204) -/

/-- The parameters of a state in which only channel 0's record differs. -/
theorem OtherChannelsKept.params {s t : State} (h : OtherChannelsKept .c0 s t) {c : Chan} (hc : c ≠ .c0) :
    t.params c = s.params c := by
  obtain ⟨_, h1, h2, h3⟩ := h
  cases c with
  | c0 => exact absurd rfl hc
  | c1 => simp [State.params, State.voice, State.vol, State.freq, State.duty, h1 nofun]
  | c2 => simp [State.params, State.voice, State.vol, State.freq, State.duty, h2 nofun]
  | c3 => simp [State.params, State.voice, State.vol, State.freq, State.duty, h3 nofun]

theorem SweepTurn.marks {e : Int} {s : State} {q : Slice} (h : SweepTurn e s q) : Marks s q := by
  have hothers := h.others
  have hframe := h.ch0_frame
  have hsame (hon : q.state.ch0.voice.on = s.ch0.voice.on) (hfreq : q.state.ch0.freq = s.ch0.freq) (c : Chan) :
      q.state.params c = s.params c := by
    by_cases hc : c = .c0
    · subst hc
      rw [hon, hfreq] at hframe
      generalize q.state.ch0.sweep.counter = n at hframe
      simp [State.params, State.voice, State.vol, State.freq, State.duty, hframe]
    · exact hothers.params hc
  have hunmoved (hchanged : q.changed = false) (hon : q.state.ch0.voice.on = s.ch0.voice.on)
      (hfreq : q.state.ch0.freq = s.ch0.freq) : Marks s q := by
    simp [Marks, hchanged, hsame hon hfreq]
  cases h with
  | rests _ hq =>
    subst hq
    exact hunmoved rfl rfl rfl
  | inRange n _ _ _ hr hq =>
    have hchanged : q.changed = decide (sweptAfter s n ≠ sweptAfter s 0) := by rw [hq]; rfl
    have hch0 : q.state.ch0 = sweptCh0 e s n := by
      rw [hq]
      exact sweptTurn_ch0 e s n
    by_cases hmoved : sweptAfter s n = sweptAfter s 0
    · refine hunmoved (by simp [hchanged, hmoved]) (congrArg (·.voice.on) hch0) ?_
      rw [hch0, sweptCh0, hmoved]
      exact BitVec.ofNat_toNat ..
    · refine .of_changed (c := .c0) (by simp [hchanged, hmoved]) fun hparams => hmoved ?_
      have hfreq : q.state.ch0.freq.setWidth 16 = s.ch0.freq.setWidth 16 := congrArg Params.freq hparams
      have hn : 1 ≤ n := Nat.one_le_iff_ne_zero.mpr fun hn => hmoved (hn ▸ rfl)
      have hle := hr n hn (le_refl n)
      rw [setWidth_inj (by decide), hch0] at hfreq
      rw [← ofNat_sweptAfter (n := n) (by omega)]
      exact congrArg BitVec.toNat hfreq
  | overflow n hon _ _ _ _ hq =>
    refine .of_changed (c := .c0) (by rw [hq]; rfl) fun hparams => ?_
    have hoff : q.state.ch0.voice.on = false := by rw [hq, switchOff_withCh0_ch0]
    have hsame : q.state.ch0.voice.on = s.ch0.voice.on := congrArg Params.on hparams
    exact Bool.false_ne_true (hoff.symm.trans (hsame.trans hon))

end Sys2Proof.Machine
end

section
/-! What an ADVANCE commits, sends and leaves alone (R204, R206, R208 to R211). -/

namespace Sys2Proof.Machine

/-! ### The commits and the mark -/

section Advanced

variable {e : Int} {s t : State} {q : Slice} (h : Advanced e s q t)
include h

theorem Advanced.passes_tracks_marks : Tracks s (timerPasses e q).state ∧ Marks s (timerPasses e q) :=
  timerPasses_tracks_marks h.sweep.tracks h.sweep.marks e h.admitted h.sweep.vol

/-- Exactly the on-bits of the channels that went off are cleared (R36). -/
theorem Advanced.bits (he : s.soundEnabled = true) (c : Chan) :
    maskBit t.sb.onMask c = (maskBit s.sb.onMask c && !((s.voice c).on && !(t.voice c).on)) := by
  obtain ⟨htracks, _⟩ := h.passes_tracks_marks
  obtain ⟨hmask, _⟩ := recordSide_sb h.side
  rw [hmask, recordSide_voice h.side]
  exact htracks.bits he c

/-- Exactly the changed volumes are committed (R206). -/
theorem Advanced.volumes (he : s.soundEnabled = true) (c : Chan) :
    t.sb.vol.get c = if t.vol c ≠ s.vol c then t.vol c else s.sb.vol.get c := by
  obtain ⟨htracks, _⟩ := h.passes_tracks_marks
  obtain ⟨_, hvol, _⟩ := recordSide_sb h.side
  rw [hvol, recordSide_vol h.side]
  exact htracks.volumes he c

/-- The committed frequency of channel 0 is as the sweep turn left it (R203). -/
theorem Advanced.sb_freq : t.sb.freq = q.state.sb.freq := by
  obtain ⟨_, _, hfreq, _⟩ := recordSide_sb h.side
  obtain ⟨_, _, _, hpasses⟩ := timerPasses_spec e q h.admitted_sweep
  exact hfreq.trans hpasses

/-! ### A channel that is off -/

theorem Advanced.ch0_of_off (hoff : s.ch0.voice.on = false) : t.ch0 = s.ch0 := by
  rw [h.ch0_turned, h.sweep.eq_sliceStart (.inl hoff)]
  simp [sliceStart, hoff, voiceAfter_rests]

theorem Advanced.ch1_of_off (hoff : s.ch1.voice.on = false) : t.ch1 = s.ch1 := by
  rw [h.ch1_turned, hoff, envelopeAfter_off, voiceAfter_rests e (.inl hoff)]

theorem Advanced.ch2_of_off (hoff : s.ch2.voice.on = false) : t.ch2 = s.ch2 := by
  rw [h.ch2_turned, voiceAfter_rests e (.inl hoff)]

theorem Advanced.ch3_of_off (hoff : s.ch3.voice.on = false) : t.ch3 = s.ch3 := by
  rw [h.ch3_turned, hoff, envelopeAfter_off, voiceAfter_rests e (.inl hoff)]

end Advanced

/-- Settles O41: each turn that switches its channel off puts out its event and clears its on-bit, and no turn of a
channel that is off does anything. -/
theorem advanceSignalsTheDeactivations : Obligations.AdvanceSignalsTheDeactivations := by
  intro s t e ht
  obtain ⟨q, h⟩ := Advanced.of_exec ht
  refine ⟨?_, h.bits, h.ch0_of_off, h.ch1_of_off, h.ch2_of_off, h.ch3_of_off⟩
  rw [h.output, deactivations_eq]

/-! ### The message (R209) -/

/-- Settles O42: the slice is marked exactly when a compared value changed, and a marked slice ends with a send. -/
theorem advanceSendsWhenSomethingChanged : Obligations.AdvanceSendsWhenSomethingChanged := by
  intro s e hready hsilent hhalts
  have ⟨hc, _⟩ := hready
  have hends := sweepEndless_of_halts hhalts
  have hturn := sweepPass_turn hends
  obtain ⟨_, hmarks⟩ := timerPasses_tracks_marks hturn.tracks hturn.marks e.toNat hc hturn.vol
  rw [← advancePasses_eq] at hmarks
  have hrest := advancePasses_rest e.toNat s
  have hexec : exec (.advance e) s = advance e s := issue_of_ready hready _
  have hrun : advance e s = if (advancePasses e.toNat s).changed then send .update .all (advancePasses e.toNat s).state
      else .next (advancePasses e.toNat s).state := if_neg (by simp [hends])
  rw [hexec, hrun]
  cases hchanged : (advancePasses e.toNat s).changed with
  | true =>
    obtain ⟨t, ht, hsent, hsends, _⟩ := send_silent .update .all (restSide_silent hrest hsilent)
    refine ⟨t, ht, fun _ => restSide_sends hrest hsends, fun hsame => ?_⟩
    obtain ⟨c, hc⟩ := hmarks.mp hchanged
    rw [← recordSide_params (recordSide_of_sentSide hsent)] at hc
    obtain ⟨h0, h1, h2, h3⟩ := hsame
    cases c <;> contradiction
  | false =>
    have hsame (c : Chan) : (advancePasses e.toNat s).state.params c = s.params c :=
      not_not.mp fun hc => Bool.false_ne_true (hchanged.symm.trans (hmarks.mpr ⟨c, hc⟩))
    refine ⟨_, rfl, fun hmoved => ?_, fun _ => restSide_sendsNothing hrest⟩
    simp [hsame] at hmoved

/-! ### The frame -/

theorem voiceAfter_frame (e : Int) (v : Voice) :
    voiceAfter e v = { v with on := (voiceAfter e v).on, lenCounter := (voiceAfter e v).lenCounter } := by
  unfold voiceAfter
  split <;> rfl

theorem envelopeAfter_frame (cfg : Config) (e : Int) (on : Bool) (v : Envelope) : envelopeAfter cfg e on v
    = { v with vol := (envelopeAfter cfg e on v).vol, counter := (envelopeAfter cfg e on v).counter } := by
  unfold envelopeAfter
  split <;> rfl

theorem advance_memory {e : BitVec 28} {s t : State} (h : advance e s = .next t) :
    MemoryKeptOutside [.onMask, .freq .c0, .vol .c0, .vol .c1, .vol .c3] s t := by
  intro a hfields hprotocol hconsumer
  have hrest := advancePasses_rest e.toNat s
  have hpasses := advancePasses_memByte e.toNat s hfields
  unfold advance at h
  split at h
  · cases h
  dsimp only at h
  split at h
  · rw [← restSide_protocol hrest] at hprotocol
    rw [← restSide_consumerField hrest] at hconsumer
    exact (send_memByte h hprotocol (hconsumer.imp_left (restSide_silent hrest))).trans hpasses
  · cases h
    exact hpasses

/-- Settles O43: the turns change the on flag, the counters, the volume and the swept frequency of a record, the passes
commit the fields named, and a send keeps the record side and every byte but the fields of the protocol. -/
theorem advanceFrame : Obligations.AdvanceFrame := by
  intro s t e ht
  obtain ⟨_, _, _, hrun⟩ := issue_eq_next.mp ht
  obtain ⟨q, h⟩ := Advanced.of_exec ht
  have hrest : restSide (timerPasses e.toNat q).state = restSide s :=
    (timerPasses_rest e.toNat q).trans h.sweep.tracks.rest
  refine ⟨?ch0, ?ch1, ?ch2, ?ch3, (restSide_modes hrest).trans (recordSide_modes h.side),
    (restSide_bytes hrest).trans (recordSide_bytes h.side), advance_memory hrun⟩
  case ch0 => rw [h.ch0_turned, voiceAfter_frame, envelopeAfter_frame, h.sweep.ch0_frame]
  case ch1 => rw [h.ch1_turned, voiceAfter_frame, envelopeAfter_frame]
  case ch2 => rw [h.ch2_turned, voiceAfter_frame]
  case ch3 => rw [h.ch3_turned, voiceAfter_frame, envelopeAfter_frame]

end Sys2Proof.Machine
end

section
/-! The timers of one channel in an ADVANCE (R202 to R208). -/

namespace Sys2Proof.Machine

/-! ### Which end of the sweep turn it is -/

/-- With a period of at least 0, a timer that is due after `m` firings fires more than `m` times. -/
theorem Fires.lt_of_due {c p : Int} {m n : Nat} (hp : 0 ≤ p) (hf : Fires c p n) (hm : c + m * p ≤ 0) : m < n := by
  obtain ⟨hpos, _⟩ := hf
  by_contra hle
  have := Int.mul_le_mul_of_nonneg_right (Int.ofNat_le.mpr (Nat.not_lt.mp hle)) hp
  omega

section SweepTurn

variable {e : Int} {s : State} {q : Slice} (h : SweepTurn e s q) (hon : s.ch0.voice.on = true)
  (htime : s.ch0.sweep.time ≠ 0#3) {n : Nat} (hr : ∀ k, 1 ≤ k → k ≤ n → sweptAfter s k ≤ 0x7FF)
include h hon htime hr

/-- A sweep that fires `n` times in range ends so (R203). -/
theorem SweepTurn.eq_inRange (hf : Fires (s.ch0.sweep.counter - e) (sweepPeriod s.cfg s.ch0.sweep.time) n) :
    q = { sweptTurn e s n with state := reportNext (sweptCh0 e s n).sweep.counter (sweptTurn e s n).state } := by
  cases h with
  | rests hrest _ => exact absurd hrest (by simp [hon, htime])
  | inRange m _ _ hm _ hq => exact hf.unique hm ▸ hq
  | overflow m _ _ hc _ ho _ =>
    have hlt := hf.lt_of_due (sweepPeriod_nonneg ..) hc
    exact absurd ho (Nat.not_lt.mpr (hr _ (Nat.le_add_left 1 m) hlt))

/-- A sweep whose step `n + 1` is due and overflows ends so (R204). -/
theorem SweepTurn.eq_overflow (hc : s.ch0.sweep.counter - e + n * sweepPeriod s.cfg s.ch0.sweep.time ≤ 0)
    (ho : 0x7FF < sweptAfter s (n + 1)) :
    q = switchOff .c0 { sweptTurn e s n with state := withCh0 (sweptCh0 e s (n + 1)) (sweptTurn e s n).state } := by
  cases h with
  | rests hrest _ => exact absurd hrest (by simp [hon, htime])
  | inRange m _ _ hf hm _ =>
    have hlt := hf.lt_of_due (sweepPeriod_nonneg ..) hc
    exact absurd ho (Nat.not_lt.mpr (hm _ (Nat.le_add_left 1 n) hlt))
  | overflow m _ _ _ hm hom hq =>
    rcases Nat.lt_trichotomy m n with hlt | rfl | hlt
    · exact absurd hom (Nat.not_lt.mpr (hr _ (Nat.le_add_left 1 m) hlt))
    · exact hq
    · exact absurd ho (Nat.not_lt.mpr (hm _ (Nat.le_add_left 1 n) hlt))

end SweepTurn

/-- No turn after the sweep changes the frequency or the sweep of channel 0. -/
theorem Advanced.ch0_swept {e : Int} {s t : State} {q : Slice} (h : Advanced e s q t) :
    t.ch0.freq = q.state.ch0.freq ∧ t.ch0.sweep = q.state.ch0.sweep := by
  rw [h.ch0_turned]
  exact ⟨rfl, rfl⟩

/-- Settles O36: the turn ends in range after exactly the firings given. -/
theorem sweepStepsTheFrequency : Obligations.SweepStepsTheFrequency := by
  intro s t e n ht hon htime hf hr
  obtain ⟨q, h⟩ := Advanced.of_exec ht
  have hq := h.sweep.eq_inRange hon htime (fun k _ => hr k) hf
  obtain ⟨hfreq, hsweep⟩ := h.ch0_swept
  have hch0 : q.state.ch0 = sweptCh0 e.toNat s n := by
    rw [hq]
    exact sweptTurn_ch0 _ s n
  refine ⟨?_, ?_, fun he hn => ?_⟩
  · have hle := hr n (le_refl n)
    rw [hfreq, hch0]
    exact ofNat_sweptAfter (by omega)
  · rw [hsweep, hch0]
    rfl
  · rw [h.sb_freq, hq]
    exact (sweptTurn_freq _ s n he).trans (if_neg hn)

/-- The events of an `ADVANCE` that switches channel 0 off begin with its `Deactivate`, which comes once (R211 (a)). -/
theorem deactivations_c0 {s t : State} (hs : s.ch0.voice.on = true) (ht : t.ch0.voice.on = false) :
    ∃ rest, deactivations s t = .deactivate .c0 :: rest ∧ HostEvent.deactivate .c0 ∉ rest := by
  have hon : ((s.voice .c0).on && !(t.voice .c0).on) = true := by simp [State.voice, hs, ht]
  rw [deactivations_eq, List.filter_cons, if_pos hon]
  refine ⟨_, rfl, fun hmem => ?_⟩
  obtain ⟨c, hc, heq⟩ := List.mem_map.mp hmem
  cases heq
  exact absurd (List.mem_filter.mp hc).1 (by decide)

/-- Settles O37: the turn ends with the overflow of step `n + 1`, after which channel 0 is off and its other turns do
nothing. -/
theorem sweepOverflowSwitchesTheChannelOff : Obligations.SweepOverflowSwitchesTheChannelOff := by
  intro s t e n ht hon htime hr ho hc
  obtain ⟨q, h⟩ := Advanced.of_exec ht
  have hq := h.sweep.eq_overflow hon htime (fun k _ => hr k) hc ho
  have hch0 : t.ch0 = { s.ch0 with
      freq := BitVec.ofNat 12 (sweptAfter s (n + 1))
      voice := { s.ch0.voice with on := false }
      sweep := { s.ch0.sweep with counter := s.ch0.sweep.counter - e.toNat
        + (n + 1) * (s.cfg.clockSpeed / (128 / s.ch0.sweep.time.toNat) : Nat) } } := by
    rw [h.ch0_turned, hq, switchOff_withCh0_ch0]
    simp [voiceAfter_rests, sweptCh0, sweepPeriod]
  have hoff : t.ch0.voice.on = false := by rw [hch0]
  obtain ⟨rest, hevents, hrest⟩ := deactivations_c0 hon hoff
  refine ⟨hch0, ?_, fun he => ⟨?_, ?_⟩, rest, h.output.trans (by rw [hevents]), hrest⟩
  · have hle := sweptAfter_succ_le (hr n (le_refl n))
    rw [hch0]
    exact ofNat_sweptAfter (by omega)
  · rw [h.bits he]
    simp [State.voice, hon, hoff]
  · rw [h.sb_freq, hq]
    simp only [switchOff, setOn, signalDeactivate_sb, commitOnBit_sb_freq, setVoice_sb]
    exact sweptTurn_freq _ s n he

/-- A sweep that subtracts, or whose step is 0, stays within 11 bits (R203). -/
theorem sweptAfter_le_of_down {s : State} (hfreq : s.ch0.freq.toNat ≤ 0x7FF)
    (h : s.ch0.sweep.down = true ∨ s.ch0.freq.toNat >>> s.ch0.sweep.shift.toNat = 0) (n : Nat) :
    sweptAfter s n ≤ 0x7FF := by
  rcases h with hdown | hstep
  · obtain ⟨hle, _⟩ := sweptAfter_mono s (Nat.zero_le n)
    exact (hle hdown).trans hfreq
  · have hstill : sweptAfter s 1 = sweptAfter s 0 := by
      have hstep : sweptAfter s 0 >>> s.ch0.sweep.shift.toNat = 0 := hstep
      rw [sweptAfter_succ, hstep, Nat.sub_zero, Nat.add_zero, ite_self]
    exact (sweptAfter_fixed s hstill n (Nat.zero_le n)).trans_le hfreq

/-- Settles O38: the sweep stays due and within 11 bits, which is what the model stops at. -/
theorem anEndlessSweepStops : Obligations.AnEndlessSweepStops := by
  intro s e hready hon hends hdue hfreq hstays
  obtain ⟨htime, hperiod⟩ := not_or.mp hends
  have hP : sweepPeriod s.cfg s.ch0.sweep.time = 0 :=
    congrArg Nat.cast (Nat.lt_one_iff.mp (Nat.not_le.mp hperiod))
  have hendless := sweepEndless_of_due hon htime hP hdue fun k _ => sweptAfter_le_of_down hfreq hstays k
  exact (issue_of_ready hready _).trans (if_pos hendless)

/-! ### The envelope and the length -/

/-- A channel that is on keeps its voice through the sweep turn, unless it is channel 0 and the sweep overflowed. -/
theorem Advanced.voice_kept {e : Int} {s t : State} {q : Slice} (h : Advanced e s q t) {c : Chan}
    (hon : (s.voice c).on = true) (hfreq : c = .c0 → s.ch0.freq.toNat ≤ 0x7FF ∧ t.ch0.freq.toNat ≤ 0x7FF) :
    q.state.voice c = s.voice c := by
  by_cases hc : c = .c0
  · subst hc
    obtain ⟨hbefore, hafter⟩ := hfreq rfl
    obtain ⟨hkept, _⟩ := h.ch0_swept
    have hstill := (h.sweep.on_iff fun _ => hbefore).mpr ⟨hon, hkept ▸ hafter⟩
    rcases h.sweep.voice_c0 with hsame | hoff
    · exact hsame
    · rw [hoff] at hstill
      cases hstill
  · exact h.sweep.voice_other hc

/-- Settles O39: the turn of an envelope that runs fires exactly as often as given, and its volume is committed when it
moved. -/
theorem envelopeStepsTheVolume : Obligations.EnvelopeStepsTheVolume := by
  intro s t e c v n ht hon henv hperiod hfreq hf
  obtain ⟨q, h⟩ := Advanced.of_exec ht
  refine ⟨?_, fun he => h.volumes he c⟩
  rw [h.env, h.voice_kept hon hfreq, hon, henv, Option.map_some, envelopeAfter_fires _ h.admitted hperiod hf]
  rfl

/-- Settles O40: the length turn of a channel that is on when it is reached. -/
theorem lengthExpirySwitchesTheChannelOff : Obligations.LengthExpirySwitchesTheChannelOff := by
  intro s t e c ht hon hfreq
  obtain ⟨q, h⟩ := Advanced.of_exec ht
  rw [h.voice, h.voice_kept hon hfreq]
  split
  · next hlen => exact voiceAfter_runs _ hon hlen
  · next hlen => exact voiceAfter_rests _ (.inr (Bool.eq_false_iff.mpr hlen))

end Sys2Proof.Machine
end

section
/-! A slice in which no timer fires (R213). -/

namespace Sys2Proof.Machine

/-! ### A turn that marks nothing writes the records and the minimum only -/

/-- `t` is `s` but for the records and the next-event minimum. -/
def OnlyRecords (s t : State) : Prop :=
  t = { s with ch0 := t.ch0, ch1 := t.ch1, ch2 := t.ch2, ch3 := t.ch3, nextEvent := t.nextEvent }

theorem OnlyRecords.trans {s t u : State} (h : OnlyRecords s t) (h' : OnlyRecords t u) : OnlyRecords s u := by
  unfold OnlyRecords at h h' ⊢
  rw [h', h]

theorem onlyRecords_setEnv (i : Chan) (w : Envelope) (n : Int) (s : State) :
    OnlyRecords s { setEnv i w s with nextEvent := n } := by cases i <;> rfl

theorem onlyRecords_setVoice (i : Chan) (w : Voice) (n : Int) (s : State) :
    OnlyRecords s { setVoice i w s with nextEvent := n } := by cases i <;> rfl

/-- If the slice is unmarked after a turn, it was before, and the turn has written the records and the minimum only. -/
def Unmarked (p q : Slice) : Prop := q.changed = false → p.changed = false ∧ OnlyRecords p.state q.state

theorem Unmarked.trans {p q r : Slice} (h : Unmarked p q) (h' : Unmarked q r) : Unmarked p r := by
  intro hr
  obtain ⟨hq, hqr⟩ := h' hr
  obtain ⟨hp, hpq⟩ := h hq
  exact ⟨hp, hpq.trans hqr⟩

theorem envelopePass_unmarked (e : Int) {i : Chan} (hi : i ≠ .c2) {p : Slice} (hc : configAdmitted p.state.cfg = true) :
    Unmarked p (envelopePass e i p) := by
  obtain ⟨v, hv⟩ := exists_env hi p.state
  rw [envelopePass_turn e hc hv]
  intro hchanged
  simp only [Bool.or_eq_false_iff, decide_eq_false_iff_not, not_not] at hchanged
  obtain ⟨hp, hvol⟩ := hchanged
  refine ⟨hp, ?_⟩
  dsimp only
  rw [enveloped, if_neg (not_not.mpr hvol)]
  exact onlyRecords_setEnv ..

theorem lengthPass_unmarked (e : Int) (i : Chan) (p : Slice) : Unmarked p (lengthPass e i p) := by
  rw [lengthPass_turn]
  intro hchanged
  obtain ⟨hp, hoff⟩ := Bool.or_eq_false_iff.mp hchanged
  refine ⟨hp, ?_⟩
  dsimp only at hoff ⊢
  rw [lengthened, if_neg (Bool.eq_false_iff.mp hoff)]
  exact onlyRecords_setVoice ..

theorem timerPasses_unmarked (e : Int) {p : Slice} (hc : configAdmitted p.state.cfg = true) :
    Unmarked p (timerPasses e p) := by
  have h0 := envelopePass_unmarked e (i := .c0) (by decide) hc
  have hc0 := restSide_cfg (envelopePass_rest e p (i := .c0) (by decide)) ▸ hc
  have h1 := envelopePass_unmarked e (i := .c1) (by decide) hc0
  have hc1 := restSide_cfg (envelopePass_rest e _ (i := .c1) (by decide)) ▸ hc0
  have h3 := envelopePass_unmarked e (i := .c3) (by decide) hc1
  have lengths (p : Slice) : Unmarked p (lengthPass e .c3 (lengthPass e .c2 (lengthPass e .c1 (lengthPass e .c0 p)))) :=
    .trans (lengthPass_unmarked e .c0 p) (.trans (lengthPass_unmarked e .c1 _)
      (.trans (lengthPass_unmarked e .c2 _) (lengthPass_unmarked e .c3 _)))
  exact h0.trans (h1.trans (h3.trans (lengths _)))

/-! ### Timers that do not fire -/

theorem voiceAfter_quiet {e : BitVec 28} {v : Voice}
    (h : v.on = true → v.lenEnable = true → (e.toNat : Int) < v.lenCounter) :
    voiceAfter e.toNat v = elapsedVoice e v := by
  by_cases hrun : v.on = true ∧ v.lenEnable = true
  · obtain ⟨hon, hlen⟩ := hrun
    have hlt := h hon hlen
    rw [voiceAfter_runs _ hon hlen]
    simp [elapsedVoice, elapse, hon, hlen, hlt]
  · rw [voiceAfter_rests _ (by simpa only [not_and_or, Bool.not_eq_true] using hrun), elapsedVoice, elapse,
      if_neg (by simpa using hrun)]

theorem envelopeAfter_quiet {cfg : Config} (hc : configAdmitted cfg = true) {e : BitVec 28} {on : Bool} {v : Envelope}
    (h : on = true → v.period ≠ 0#3 → (e.toNat : Int) < v.counter) :
    envelopeAfter cfg e.toNat on v = elapsedEnvelope e on v := by
  by_cases hrun : on = true ∧ v.period ≠ 0#3
  · obtain ⟨rfl, hp⟩ := hrun
    have hf : Fires (v.counter - e.toNat) (envReload cfg v.period) 0 := Fires.zero_iff.mpr (Int.sub_pos.mpr (h rfl hp))
    rw [envelopeAfter_fires _ hc hp hf]
    simp [elapsedEnvelope, elapse, hp]
  · rw [envelopeAfter, if_neg (by simpa using hrun), elapsedEnvelope, elapse, if_neg (by simpa using hrun)]

/-- The sweep turn when the sweep is not due. -/
theorem SweepTurn.quiet {e : BitVec 28} {s : State} {q : Slice} (hturn : SweepTurn e.toNat s q)
    (h : s.ch0.voice.on = true → s.ch0.sweep.time ≠ 0#3 → (e.toNat : Int) < s.ch0.sweep.counter) :
    q.changed = false ∧ OnlyRecords s q.state
      ∧ q.state.ch0 = { s.ch0 with sweep := elapsedSweep e s.ch0.voice.on s.ch0.sweep } := by
  cases hturn with
  | rests hrest hq =>
    subst hq
    refine ⟨rfl, rfl, ?_⟩
    rw [elapsedSweep, elapse, if_neg (by rcases hrest with h | h <;> simp [h])]
    rfl
  | inRange n hon htime hf _ hq =>
    obtain rfl : n = 0 := hf.unique (Fires.zero_iff.mpr (Int.sub_pos.mpr (h hon htime)))
    subst hq
    refine ⟨by simp [sweptTurn], rfl, ?_⟩
    simp [sweptCh0, sweptAfter, elapsedSweep, elapse, hon, htime]
  | overflow n hon htime hc _ _ _ =>
    have hn := Int.mul_nonneg (Int.natCast_nonneg n) (sweepPeriod_nonneg s.cfg s.ch0.sweep.time)
    have := h hon htime
    omega

/-- Where no turn switches its channel off, every report is of a timer that still runs (R212, R217). -/
theorem Advanced.running_of_reported {e : Int} {s t : State} {q : Slice} (h : Advanced e s q t)
    (hon : ∀ c, (t.voice c).on = (q.state.voice c).on) {n : Int} (hn : n ∈ turnReports e q.state) :
    ∃ c, n ∈ runningCounters c t := by
  have hch := h.channels
  rcases List.mem_append.mp hn with hn | hn
  · obtain ⟨hstill, hrun⟩ := mem_sweepReports.mp hn
    obtain ⟨_, hsweep⟩ := h.ch0_swept
    exact ⟨.c0, mem_runningCounters.mpr ⟨(hon .c0).trans hstill, .inr (.inr ⟨rfl, hsweep ▸ hrun⟩)⟩⟩
  rcases mem_timerReports.mp hn with ⟨c, w, hstill, henv, hrun⟩ | ⟨c, hn⟩
  · exact ⟨c, mem_runningCounters.mpr ⟨(hon c).trans hstill, .inr (.inl ⟨w, (hch.env c).trans henv, hrun⟩)⟩⟩
  · rw [← hch.voice] at hn
    obtain ⟨hstill, hrun⟩ := mem_lengthReports.mp hn
    exact ⟨c, mem_runningCounters.mpr ⟨hstill, .inl hrun⟩⟩

section Quiet

variable {e : BitVec 28} {s t : State} {q : Slice} (h : Advanced e.toNat s q t)
  (hquiet : ∀ c, ∀ n ∈ runningCounters c s, (e.toNat : Int) < n)
include h hquiet

/-- The records after a slice in which no timer fires. -/
theorem Advanced.quiet_channels :
    t.ch0 = { s.ch0 with
        voice := elapsedVoice e s.ch0.voice, env := elapsedEnvelope e s.ch0.voice.on s.ch0.env
        sweep := elapsedSweep e s.ch0.voice.on s.ch0.sweep }
      ∧ t.ch1 = { s.ch1 with
        voice := elapsedVoice e s.ch1.voice, env := elapsedEnvelope e s.ch1.voice.on s.ch1.env }
      ∧ t.ch2 = { s.ch2 with voice := elapsedVoice e s.ch2.voice }
      ∧ t.ch3 = { s.ch3 with
        voice := elapsedVoice e s.ch3.voice, env := elapsedEnvelope e s.ch3.voice.on s.ch3.env } := by
  have length (c : Chan) (hon : (s.voice c).on = true) (hlen : (s.voice c).lenEnable = true) :=
    hquiet c _ (mem_runningCounters.mpr ⟨hon, .inl ⟨hlen, rfl⟩⟩)
  have envelope (c : Chan) {v : Envelope} (hv : s.env c = some v) (hon : (s.voice c).on = true)
      (hperiod : v.period ≠ 0#3) := hquiet c _ (mem_runningCounters.mpr ⟨hon, .inr (.inl ⟨v, hv, hperiod, rfl⟩)⟩)
  obtain ⟨_, _, q0⟩ := h.sweep.quiet fun hon htime =>
    hquiet .c0 _ (mem_runningCounters.mpr ⟨hon, .inr (.inr ⟨rfl, htime, rfl⟩)⟩)
  have hc := h.admitted
  refine ⟨?_, ?_, ?_, ?_⟩
  · rw [h.ch0_turned, q0]
    dsimp only
    rw [voiceAfter_quiet (v := s.ch0.voice) (length .c0),
      envelopeAfter_quiet (on := s.ch0.voice.on) hc (envelope .c0 rfl)]
  · rw [h.ch1_turned, voiceAfter_quiet (v := s.ch1.voice) (length .c1),
      envelopeAfter_quiet (on := s.ch1.voice.on) hc (envelope .c1 rfl)]
  · rw [h.ch2_turned, voiceAfter_quiet (v := s.ch2.voice) (length .c2)]
  · rw [h.ch3_turned, voiceAfter_quiet (v := s.ch3.voice) (length .c3),
      envelopeAfter_quiet (on := s.ch3.voice.on) hc (envelope .c3 rfl)]

/-- No parameter changes in such a slice. -/
theorem Advanced.quiet_params (c : Chan) : t.params c = s.params c := by
  obtain ⟨h0, h1, h2, h3⟩ := h.quiet_channels hquiet
  cases c with
  | c0 => simp only [State.params, State.voice, State.vol, State.freq, State.duty, h0]; rfl
  | c1 => simp only [State.params, State.voice, State.vol, State.freq, State.duty, h1]; rfl
  | c2 => simp only [State.params, State.voice, State.vol, State.freq, State.duty, h2]; rfl
  | c3 => simp only [State.params, State.voice, State.vol, State.freq, State.duty, h3]; rfl

/-- The minimum is rebuilt from the counters that run. -/
theorem Advanced.quiet_nextEvent : t.nextEvent = (runningCounters .c0 t ++ runningCounters .c1 t
    ++ runningCounters .c2 t ++ runningCounters .c3 t).foldl min noEvent := by
  have hon (c : Chan) : (t.voice c).on = (q.state.voice c).on := by
    have hafter : (t.voice c).on = (s.voice c).on := congrArg Params.on (h.quiet_params hquiet c)
    have hbefore (hs : (s.voice c).on = true) : (q.state.voice c).on = true :=
      voiceAfter_on_le (h.voice c ▸ hafter.trans hs)
    rw [hafter]
    exact Bool.eq_iff_iff.mpr ⟨hbefore, h.sweep.tracks.off c⟩
  rw [h.nextEvent]
  refine foldl_min_congr (fun n => ⟨fun hn => ?_, fun hn => ?_⟩) _
  · obtain ⟨c, hc⟩ := h.running_of_reported hon hn
    simp only [List.mem_append]
    cases c <;> simp only [hc, true_or, or_true]
  · simp only [List.mem_append] at hn
    rcases hn with ((hn | hn) | hn) | hn <;> exact h.running_reported hn

end Quiet

/-- Settles O45: below every running counter no turn fires, so none marks the slice, and an unmarked slice differs from
`s` in the records and the minimum only. -/
theorem advanceBelowTheNextEventIsQuiet : Obligations.AdvanceBelowTheNextEventIsQuiet := by
  intro s e hready hbelow
  have ⟨hc, _⟩ := hready
  have hquiet : ∀ c, ∀ n ∈ runningCounters c s, (e.toNat : Int) < n := by
    rcases hbelow with ⟨hinv, hlt⟩ | hlt
    · exact fun c n hn => lt_of_lt_of_le hlt (hinv c n hn)
    · exact hlt
  have hsweep (hon : s.ch0.voice.on = true) (htime : s.ch0.sweep.time ≠ 0#3) :
      (e.toNat : Int) < s.ch0.sweep.counter :=
    hquiet .c0 _ (mem_runningCounters.mpr ⟨hon, .inr (.inr ⟨rfl, htime, rfl⟩)⟩)
  have hhalts : s.SweepHalts e := by
    by_cases htime : s.ch0.sweep.time = 0#3
    · exact .inl (.inl htime)
    · cases hon : s.ch0.voice.on with
      | false => exact .inr (.inl hon)
      | true => exact .inr (.inr (.inl (Int.sub_pos.mpr (hsweep hon htime))))
  have hends := sweepEndless_of_halts hhalts
  have hadvanced : Advanced e.toNat s _ _ := ⟨hc, sweepPass_turn hends, rfl⟩
  rw [← advancePasses_eq] at hadvanced
  obtain ⟨hunmarked, hswept, _⟩ := hadvanced.sweep.quiet hsweep
  have hchanged : (advancePasses e.toNat s).changed = false := by
    obtain ⟨_, hmarks⟩ := hadvanced.passes_tracks_marks
    rw [← advancePasses_eq] at hmarks
    refine Bool.eq_false_iff.mpr fun hc => ?_
    obtain ⟨c, hmoved⟩ := hmarks.mp hc
    exact hmoved (hadvanced.quiet_params hquiet c)
  obtain ⟨_, hrest⟩ := timerPasses_unmarked e.toNat hadvanced.admitted_sweep hchanged
  have honly : OnlyRecords s (advancePasses e.toNat s).state := hswept.trans hrest
  have hexec : exec (.advance e) s = .next (advancePasses e.toNat s).state := by
    refine (issue_of_ready hready _).trans ?_
    unfold advance
    rw [if_neg (by simp [hends])]
    simp [hchanged]
  obtain ⟨h0, h1, h2, h3⟩ := hadvanced.quiet_channels hquiet
  refine ⟨_, hexec, hadvanced.quiet_nextEvent hquiet, ?_⟩
  refine Eq.trans honly ?_
  rw [h0, h1, h2, h3]

end Sys2Proof.Machine
end

section
/-! Two slices in a row and the one slice of their sum (R219). -/

namespace Sys2Proof.Machine

/-! ### Timers over two slices -/

/-- A timer that fires `m` times in one slice and `n` times in the next, of `b` cycles, fires `m + n` times over both. -/
theorem Fires.add {c p b : Int} {m n : Nat} (hm : Fires c p m) (hb : 0 ≤ b) (hn : Fires (c + m * p - b) p n) :
    Fires (c - b) p (m + n) := by
  obtain ⟨_, hfirst⟩ := hm
  obtain ⟨hpos, hsecond⟩ := hn
  have hsum (k : Nat) : c - b + ((m + k : Nat) : Int) * p = c + m * p - b + k * p := by push_cast; ring
  refine ⟨hsum n ▸ hpos, fun k hk => ?_⟩
  by_cases hkm : k < m
  · have := hfirst k hkm
    omega
  · obtain ⟨j, rfl⟩ := Nat.exists_eq_add_of_le (Nat.not_lt.mp hkm)
    rw [hsum]
    exact hsecond j (by omega)

theorem stepVolume_add (up : Bool) (vol : BitVec 4) (m n : Nat) :
    stepVolume up (stepVolume up vol m) n = stepVolume up vol (m + n) := by
  induction n with
  | zero => rw [stepVolume_zero, Nat.add_zero]
  | succ n ih => rw [stepVolume_succ, ih, ← stepVolume_succ, Nat.add_assoc]

/-- The frequencies go on from where the steps before left them. -/
theorem sweptAfter_add {s t : State} {m : Nat} (hfreq : t.ch0.freq.toNat = sweptAfter s m)
    (hdown : t.ch0.sweep.down = s.ch0.sweep.down) (hshift : t.ch0.sweep.shift = s.ch0.sweep.shift) (n : Nat) :
    sweptAfter t n = sweptAfter s (m + n) := by
  induction n with
  | zero => exact hfreq
  | succ n ih => rw [sweptAfter_succ, ih, hdown, hshift, ← Nat.add_assoc, ← sweptAfter_succ]

/-- The length of a channel that stays on. -/
theorem voiceAfter_add {a b : Int} {v : Voice} (hon : (voiceAfter b (voiceAfter a v)).on = true) :
    voiceAfter b (voiceAfter a v) = voiceAfter (a + b) v := by
  have hmid := voiceAfter_on_le hon
  have hv := voiceAfter_on_le hmid
  cases hlen : v.lenEnable with
  | false => simp only [voiceAfter_rests _ (.inr hlen)]
  | true =>
    have hsub : v.lenCounter - a - b = v.lenCounter - (a + b) := by omega
    rw [voiceAfter_runs b hmid ((voiceAfter_lenEnable a v).trans hlen), voiceAfter_runs a hv hlen,
      voiceAfter_runs _ hv hlen]
    simp only [hsub]

/-- The envelope of a channel that stays on. -/
theorem envelopeAfter_add {cfg : Config} (hc : configAdmitted cfg = true) {a b : Int} (hb : 0 ≤ b) (v : Envelope) :
    envelopeAfter cfg b true (envelopeAfter cfg a true v) = envelopeAfter cfg (a + b) true v := by
  by_cases hp : v.period = 0#3
  · simp [envelopeAfter, hp]
  obtain ⟨m, hm, _⟩ := exists_envelopeAfter_fires a hc hp
  have hfirst := envelopeAfter_fires a hc hp hm
  have hp' : (envelopeAfter cfg a true v).period ≠ 0#3 := by rwa [envelopeAfter_period]
  obtain ⟨n, hn, _⟩ := exists_envelopeAfter_fires b hc hp'
  rw [envelopeAfter_fires b hc hp' hn]
  rw [hfirst] at hn ⊢
  have hsum := hm.add hb hn
  rw [show v.counter - a - b = v.counter - (a + b) by omega] at hsum
  rw [envelopeAfter_fires _ hc hp hsum]
  simp only [stepVolume_add, Envelope.mk.injEq, true_and]
  push_cast
  ring

/-! ### The sweep over two slices -/

/-- A sweep turn that leaves channel 0 on: it had no sweep, or `n` steps in range fired. -/
theorem SweepTurn.stays {e : Int} {s : State} {q : Slice} (h : SweepTurn e s q) (hon : q.state.ch0.voice.on = true) :
    (s.ch0.sweep.time = 0#3 ∧ q.state.ch0 = s.ch0)
      ∨ s.ch0.sweep.time ≠ 0#3 ∧ ∃ n, Fires (s.ch0.sweep.counter - e) (sweepPeriod s.cfg s.ch0.sweep.time) n
        ∧ (∀ k, 1 ≤ k → k ≤ n → sweptAfter s k ≤ 0x7FF) ∧ q.state.ch0 = sweptCh0 e s n := by
  cases h with
  | rests hrest hq =>
    subst hq
    rcases hrest with hoff | htime
    · exact absurd (hoff.symm.trans hon) Bool.false_ne_true
    · exact .inl ⟨htime, rfl⟩
  | inRange n _ htime hf hr hq =>
    subst hq
    exact .inr ⟨htime, n, hf, hr, sweptTurn_ch0 e s n⟩
  | overflow n _ _ _ _ _ hq =>
    subst hq
    rw [switchOff_withCh0_ch0] at hon
    cases hon

/-- The sweep turn leaves the voice of a channel that it leaves on alone. -/
theorem SweepTurn.voice_of_on {e : Int} {s : State} {q : Slice} (h : SweepTurn e s q) {c : Chan}
    (hon : (q.state.voice c).on = true) : q.state.voice c = s.voice c := by
  by_cases hc : c = .c0
  · subst hc
    rcases h.voice_c0 with hsame | hoff
    · exact hsame
    · exact absurd ((congrArg Voice.on hoff).symm.trans hon) Bool.false_ne_true
  · exact h.voice_other hc

theorem sweptAfter_le_twelve_bits {s : State} {n : Nat} (hr : ∀ k, 1 ≤ k → k ≤ n → sweptAfter s k ≤ 0x7FF) :
    sweptAfter s n ≤ 0xFFF := by
  cases n with
  | zero => exact Nat.le_of_lt_succ s.ch0.freq.isLt
  | succ n => exact (hr (n + 1) (Nat.le_add_left 1 n) (le_refl _)).trans (by decide)

/-- Two sweep turns that leave channel 0 on do what the one of their sum does; the turns between them touch neither the
frequency nor the sweep. -/
theorem SweepTurn.add {a b : Int} {s t : State} {q₁ q₂ q₃ : Slice} (h₁ : SweepTurn a s q₁) (h₂ : SweepTurn b t q₂)
    (h₃ : SweepTurn (a + b) s q₃) (hb : 0 ≤ b) (hcfg : t.cfg = s.cfg) (hfreq : t.ch0.freq = q₁.state.ch0.freq)
    (hsweep : t.ch0.sweep = q₁.state.ch0.sweep) (hon₁ : q₁.state.ch0.voice.on = true)
    (hon₂ : q₂.state.ch0.voice.on = true) :
    q₃.state.ch0.voice = s.ch0.voice ∧ q₃.state.ch0.freq = q₂.state.ch0.freq
      ∧ q₃.state.ch0.sweep = q₂.state.ch0.sweep := by
  have hon : s.ch0.voice.on = true := h₁.tracks.off .c0 hon₁
  have hsame : t.ch0.sweep.time = s.ch0.sweep.time := by rw [hsweep, h₁.ch0_frame]
  rcases h₁.stays hon₁ with ⟨htime, hq₁⟩ | ⟨htime, m, hm, hrm, hq₁⟩
  · have hq₂ := h₂.eq_sliceStart (.inr (hsame.trans htime))
    have hq₃ := h₃.eq_sliceStart (.inr htime)
    rw [hq₂, hq₃]
    exact ⟨rfl, (hq₁ ▸ hfreq).symm, (hq₁ ▸ hsweep).symm⟩
  rw [hq₁] at hfreq hsweep
  rcases h₂.stays hon₂ with ⟨htime₂, _⟩ | ⟨_, n, hn, hrn, hq₂⟩
  · exact absurd (hsame.symm.trans htime₂) htime
  have hstored : t.ch0.freq.toNat = sweptAfter s m := by
    rw [hfreq]
    exact ofNat_sweptAfter (sweptAfter_le_twelve_bits hrm)
  have hafter (k : Nat) : sweptAfter t k = sweptAfter s (m + k) :=
    sweptAfter_add hstored (by rw [hsweep]; rfl) (by rw [hsweep]; rfl) k
  have hfires : Fires (s.ch0.sweep.counter - (a + b)) (sweepPeriod s.cfg s.ch0.sweep.time) (m + n) := by
    rw [← Int.sub_sub]
    refine hm.add hb ?_
    rw [hsweep, hcfg] at hn
    exact hn
  have hrange (k : Nat) (h1 : 1 ≤ k) (hk : k ≤ m + n) : sweptAfter s k ≤ 0x7FF := by
    by_cases hkm : k ≤ m
    · exact hrm k h1 hkm
    · obtain ⟨j, rfl⟩ := Nat.exists_eq_add_of_le (Nat.le_of_not_le hkm)
      exact hafter j ▸ hrn j (by omega) (by omega)
  have hq₃ : q₃.state.ch0 = sweptCh0 (a + b) s (m + n) := by
    rw [h₃.eq_inRange hon htime hrange hfires]
    exact sweptTurn_ch0 ..
  rw [hq₃, hq₂]
  refine ⟨rfl, by simp only [sweptCh0, hafter], ?_⟩
  simp only [sweptCh0, hsweep, hcfg, Sweep.mk.injEq, true_and]
  push_cast
  ring

/-! ### One channel over two slices -/

section Advanced

variable {e : Int} {s t : State} {q : Slice} (h : Advanced e s q t)
include h

/-- A channel that is on after the operation was on through its turns. -/
theorem Advanced.on_swept {c : Chan} (hon : (t.voice c).on = true) : (q.state.voice c).on = true :=
  voiceAfter_on_le (h.voice c ▸ hon)

theorem Advanced.voice_of_kept {c : Chan} (hkept : q.state.voice c = s.voice c) :
    t.voice c = voiceAfter e (s.voice c) := by rw [h.voice, hkept]

theorem Advanced.env_of_on {c : Chan} (hon : (q.state.voice c).on = true) :
    t.env c = (s.env c).map (envelopeAfter s.cfg e true) := by rw [h.env, hon]

theorem Advanced.ch0_eq : t.ch0 = { s.ch0 with
    voice := t.ch0.voice, env := t.ch0.env, sweep := q.state.ch0.sweep, freq := q.state.ch0.freq } := by
  rw [h.ch0_turned, h.sweep.ch0_frame]

theorem Advanced.ch1_eq : t.ch1 = { s.ch1 with voice := t.ch1.voice, env := t.ch1.env } := by rw [h.ch1_turned]

theorem Advanced.ch2_eq : t.ch2 = { s.ch2 with voice := t.ch2.voice } := by rw [h.ch2_turned]

theorem Advanced.ch3_eq : t.ch3 = { s.ch3 with voice := t.ch3.voice, env := t.ch3.env } := by rw [h.ch3_turned]

end Advanced

/-- `a` cycles and then `b`, and `a + b` cycles at once, from the same state. -/
structure Split (a b : Int) (s t u v : State) (q₁ q₂ q₃ : Slice) : Prop where
  nonneg : 0 ≤ b
  early  : Advanced a s q₁ t
  late   : Advanced b t q₂ u
  whole  : Advanced (a + b) s q₃ v

section Split

variable {a b : Int} {s t u v : State} {q₁ q₂ q₃ : Slice} (h : Split a b s t u v q₁ q₂ q₃) {c : Chan}
  (hon : (u.voice c).on = true)
include h hon

theorem Split.on_mid : (t.voice c).on = true :=
  h.late.sweep.tracks.off c (h.late.on_swept hon)

/-- The sweep over the two slices, for a channel 0 that stays on. -/
theorem Split.sweep (hc : c = .c0) :
    q₃.state.ch0.voice = s.ch0.voice ∧ q₃.state.ch0.freq = q₂.state.ch0.freq
      ∧ q₃.state.ch0.sweep = q₂.state.ch0.sweep := by
  subst hc
  obtain ⟨hfreq, hsweep⟩ := h.early.ch0_swept
  exact h.early.sweep.add h.late.sweep h.whole.sweep h.nonneg h.early.cfg hfreq hsweep (h.early.on_swept (h.on_mid hon))
    (h.late.on_swept hon)

/-- The sweep turn of the whole slice leaves the voice alone. -/
theorem Split.kept : q₃.state.voice c = s.voice c := by
  by_cases hc : c = .c0
  · obtain ⟨hvoice, _⟩ := h.sweep hon hc
    subst hc
    exact hvoice
  · exact h.whole.sweep.voice_other hc

theorem Split.voice : u.voice c = v.voice c := by
  have hfirst := h.early.voice_of_kept (h.early.sweep.voice_of_on (h.early.on_swept (h.on_mid hon)))
  have hsecond := h.late.voice_of_kept (h.late.sweep.voice_of_on (h.late.on_swept hon))
  rw [hfirst] at hsecond
  rw [hsecond, h.whole.voice_of_kept (h.kept hon)]
  exact voiceAfter_add (hsecond ▸ hon)

theorem Split.env : u.env c = v.env c := by
  have hmid := h.early.on_swept (h.on_mid hon)
  have hstart : (q₃.state.voice c).on = true := by
    rw [h.kept hon]
    exact h.early.sweep.tracks.off c hmid
  rw [h.late.env_of_on (h.late.on_swept hon), h.early.env_of_on hmid, h.whole.env_of_on hstart, h.early.cfg,
    Option.map_map]
  exact congrArg (fun f => (s.env c).map f) (funext fun w => envelopeAfter_add h.early.admitted h.nonneg w)

end Split

/-- Settles O46: every timer of a channel that stays on fires as often over the two slices as over their sum. -/
theorem splittingASliceKeepsTheRecord : Obligations.SplittingASliceKeepsTheRecord := by
  intro s t u v a b hsum ha hb hab
  obtain ⟨q₁, early⟩ := Advanced.of_exec ha
  obtain ⟨q₂, late⟩ := Advanced.of_exec hb
  obtain ⟨q₃, whole⟩ := Advanced.of_exec hab
  have htoNat : ((a + b).toNat : Int) = a.toNat + b.toNat := by
    rw [BitVec.toNat_add, Nat.mod_eq_of_lt hsum]
    push_cast
    rfl
  rw [htoNat] at whole
  have h : Split a.toNat b.toNat s t u v q₁ q₂ q₃ := ⟨Int.natCast_nonneg _, early, late, whole⟩
  refine ⟨fun hon => ?_, fun hon => ?_, fun hon => ?_, fun hon => ?_⟩
  · have hvoice : u.ch0.voice = v.ch0.voice := h.voice (c := .c0) hon
    have henv : u.ch0.env = v.ch0.env := Option.some.inj (h.env (c := .c0) hon)
    obtain ⟨_, hfreq, hsweep⟩ := h.sweep (c := .c0) hon rfl
    rw [late.ch0_eq, early.ch0_eq, whole.ch0_eq, hvoice, henv, hfreq, hsweep]
  · have hvoice : u.ch1.voice = v.ch1.voice := h.voice (c := .c1) hon
    have henv : u.ch1.env = v.ch1.env := Option.some.inj (h.env (c := .c1) hon)
    rw [late.ch1_eq, early.ch1_eq, whole.ch1_eq, hvoice, henv]
  · have hvoice : u.ch2.voice = v.ch2.voice := h.voice (c := .c2) hon
    rw [late.ch2_eq, early.ch2_eq, whole.ch2_eq, hvoice]
  · have hvoice : u.ch3.voice = v.ch3.voice := h.voice (c := .c3) hon
    have henv : u.ch3.env = v.ch3.env := Option.some.inj (h.env (c := .c3) hon)
    rw [late.ch3_eq, early.ch3_eq, whole.ch3_eq, hvoice, henv]

end Sys2Proof.Machine
end

section
/-! A write to wave RAM (R231, R232): the rule is one conversion of the Sample Buffer. -/

namespace Sys2Proof.Machine

/-- Settles O35: an issued wave write is the conversion of its byte, which writes the two samples and no other. -/
theorem waveWritesConvertOneByte : Obligations.WaveWritesConvertOneByte := by
  intro s j d hready hwf
  have hexec : exec (.writeWave j d) s = writeWave j d s := issue_of_ready hready _
  obtain ⟨hhigh, hlow⟩ := convertSample_hasSamples s.cfg hwf j.toNat d
  exact ⟨_, hexec, rfl, hhigh, hlow, fun _ h h' => convertSample_read_other s.cfg hwf d h h'⟩

end Sys2Proof.Machine
end

section
/-! The admission of a word and the delivery of one, whatever the consumer does meanwhile (R248, R250): everything each
can do, said once. -/

namespace Sys2Proof.Machine

/-- What `Enqueue` can do (R248), for a relation `R` that the consumer respects: a drop with its diagnostic, or the
slot, the count and the queue written in this order, with the consumer in between. -/
theorem enqueue_next {R : State → State → Prop} (C : ConsumerClosed R) {w : Word} {s t : State}
    (h : enqueue w s = .next t) :
    (∃ a code, R s a ∧ t = diag code a)
      ∨ ∃ a b c, R s a ∧ R { a with rsb := a.rsb.put .message w } b
          ∧ R { b with rsb := b.rsb.put .sentCount (b.rsb.sentCount + 1) } c
          ∧ t = { c with queue := c.queue ++ [w] } := by
  unfold enqueue at h
  obtain ⟨a, hthreshold, h⟩ := andThen_eq_next.mp h
  have ha := C.turn hthreshold
  split at h
  · cases h
    exact .inl ⟨a, _, ha, rfl⟩
  obtain ⟨b, hcapacity, h⟩ := andThen_eq_next.mp h
  have hb := C.trans ha (C.turn hcapacity)
  split at h
  · cases h
    exact .inl ⟨b, _, hb, rfl⟩
  obtain ⟨c, hslot, h⟩ := andThen_eq_next.mp h
  obtain ⟨d, hcount, h⟩ := andThen_eq_next.mp h
  obtain ⟨e, htail, h⟩ := andThen_eq_next.mp h
  cases h
  exact .inr ⟨c, d, e, C.trans hb (C.turn hslot), C.turn hcount, C.turn htail, rfl⟩

/-- What `SyncSend` can do (R250), for a relation `R` that the consumer respects: a fallback, or the wait for the target
it has written. -/
theorem syncSend_next {R : State → State → Prop} (C : ConsumerClosed R) {w : Word} {s t : State}
    (h : syncSend w s = .next t) :
    ∃ a, R (afterDraw s) a ∧ (fallBack w a = .next t
      ∨ await w { a with rsb := a.rsb.put .syncCycle (targetCycle s.draw) } = .next t) := by
  unfold syncSend at h
  obtain ⟨a, hposition, h⟩ := andThen_eq_next.mp h
  have ha := C.turn hposition
  split at h
  · exact ⟨a, ha, .inl h⟩
  obtain ⟨b, hflip, h⟩ := andThen_eq_next.mp h
  have hb := C.trans ha (C.turn hflip)
  split at h
  · exact ⟨b, hb, .inl h⟩
  obtain ⟨c, hphase, h⟩ := andThen_eq_next.mp h
  have hc := C.trans hb (C.turn hphase)
  split at h
  · exact ⟨c, hc, .inl h⟩
  obtain ⟨d, htarget, h⟩ := andThen_eq_next.mp h
  exact ⟨d, C.trans hc (C.turn htarget), .inr h⟩

end Sys2Proof.Machine
end

section
/-! The mailbox: what the invariants of the protocol read (R247, R252), and what every step keeps of it. -/

namespace Sys2Proof.Machine

/-- The queue, the counts, the handshake cell, the consumer's half-done moves, and whether P holds. -/
structure Mailbox where
  queue     : List Word
  sentCount : Word
  recvCount : Word
  syncCycle : Word
  consumer  : Consumer
  holds     : Bool

/-- The mailbox of a state. -/
def State.mailbox (s : State) : Mailbox :=
  ⟨s.queue, s.rsb.sentCount, s.rsb.recvCount, s.rsb.syncCycle, s.consumer, s.held.isSome⟩

theorem mailbox_of_mailSide {s t : State} (h : mailSide t = mailSide s) : t.mailbox = s.mailbox :=
  congrArg State.mailbox (a₁ := mailSide t) (a₂ := mailSide s) h

theorem mailbox_of_protocolSide {s t : State} (h : protocolSide t = protocolSide s) : t.mailbox = s.mailbox :=
  mailbox_of_mailSide (mailSide_of_protocolSide h)

theorem mailbox_of_restSide {s t : State} (h : restSide t = restSide s) : t.mailbox = s.mailbox :=
  mailbox_of_protocolSide (restSide_protocolSide h)

/-- A commit of a field of P that no message writes leaves the mailbox alone. -/
theorem mailbox_commit {f : Field} (hf : f.isPublished = true ∨ f = .producerFlip) (v : Word) (s : State) :
    (commit f v s).mailbox = s.mailbox := mailbox_of_mailSide (mailSide_commit hf v s)

theorem mailbox_refreshed (s : State) : (commit .onMask 0 (refreshUpdate s)).mailbox = s.mailbox :=
  (mailbox_commit (.inl rfl) _ _).trans <| (mailbox_commit (.inl rfl) _ _).trans <|
    mailbox_commit (.inr rfl) _ { s with masterEnable := masterOf (s.ioByte 0x26#8) }

theorem mailbox_deferTasks (ts : List Task) (s : State) : (deferTasks ts s).mailbox = s.mailbox := by
  simp [State.mailbox, deferTasks]

/-- A preorder on states that equality of the mailboxes implies, and that each update which changes the mailbox
respects: the consumer's steps, the deliveries, `INIT`. -/
structure MailboxClosed (R : State → State → Prop) : Prop extends ConsumerClosed R where
  kept    : ∀ {s t}, t.mailbox = s.mailbox → R s t
  send    : ∀ {k c s t}, send k c s = .next t → R s t
  enqueue : ∀ {w s t}, enqueue w s = .next t → R s t
  await   : ∀ {w s t}, await w s = .next t → R s t
  init    : ∀ s : State, R s (initState s)

theorem MailboxClosed.stepClosed {R : State → State → Prop} (C : MailboxClosed R) : StepClosed R where
  refl := C.refl
  trans := C.trans
  turn := C.toConsumerClosed.turn
  count hd hf := C.move (.count _ _ hd hf)
  send _ := C.send
  enqueue _ := C.enqueue
  await _ := C.await
  deferred ts s := C.kept (mailbox_deferTasks ts s)
  channel s hb := C.kept (mailbox_of_restSide (channelUpdate_rest hb _ s))
  mastervol d s := C.kept (mailbox_of_protocolSide (mastervolUpdate_protocolSide d s))
  routing d s := C.kept (mailbox_of_protocolSide (routingUpdate_protocolSide d s))
  wave _ _ _ := C.kept rfl
  disable s := C.kept (mailbox_commit (.inl rfl) _ { s with masterEnable := false })
  enable s := C.kept (mailbox_commit (.inl rfl) _ { s with masterEnable := true })
  refresh s := C.kept (mailbox_refreshed s)
  mute _ := C.kept rfl
  unmute s := C.kept (mailbox_refreshed { s with target := .real, muted := false })
  disabled _ := C.kept rfl
  enabled s _ := C.kept (mailbox_refreshed { s with soundEnabled := true })
  sync b s := C.kept (mailbox_commit (.inl rfl) _ { s with accurateSync := b })
  vblank s := C.kept (mailbox_commit (.inr rfl) _ { s with producerFlip := !s.producerFlip })
  output _ := C.kept rfl
  passes e s := C.kept (mailbox_of_restSide (advancePasses_rest e.toNat s))
  init s _ := C.init s
  fetched _ _ := C.kept rfl
  stored _ _ _ _ _ := C.kept rfl

/-! ### The outstanding count (R247) -/

/-- What the outstanding count holds beyond the words in the queue and in the consumer's hand. R247 makes it 0; while P
admits a word, which it counts before the word goes in, it is 1 (R248). -/
def surplus (s : State) : Word :=
  s.outstanding - BitVec.ofNat 32 (s.queue.length + if s.consumer.dequeued.isSome then 1 else 0)

theorem countInv_iff_surplus (s : State) : CountInv s ↔ surplus s = 0 := sub_eq_zero.symm

theorem surplus_of_mailbox {s t : State} (h : t.mailbox = s.mailbox) : surplus t = surplus s := by
  have hproj {α : Type} (f : Mailbox → α) : f t.mailbox = f s.mailbox := congrArg f h
  have hsent : t.rsb.sentCount = s.rsb.sentCount := hproj Mailbox.sentCount
  have hrecv : t.rsb.recvCount = s.rsb.recvCount := hproj Mailbox.recvCount
  have hqueue : t.queue = s.queue := hproj Mailbox.queue
  have hconsumer : t.consumer = s.consumer := hproj Mailbox.consumer
  simp only [surplus, State.outstanding, hsent, hrecv, hqueue, hconsumer]

/-- The consumer takes a word from the queue into its hand, and counts the word in its hand (R262). -/
theorem ConsumerStep.surplus {s t : State} (h : ConsumerStep s t) : surplus t = surplus s := by
  cases h with
  | stay | acknowledge | finishAcknowledge => rfl
  | dequeue w rest hd hq => simp [Machine.surplus, State.outstanding, hd, hq]
  | count w hd hf =>
    simp only [Machine.surplus, State.outstanding, countMessage, SharedBlock.put, hd, Option.isSome_some,
      Option.isSome_none, if_true, Bool.false_eq_true, if_false]
    bv_omega
  | own f v hf => rcases hf with rfl | rfl | rfl <;> rfl
  | flip f v g hf => rcases hf with rfl | rfl | rfl <;> rfl

theorem consumerClosed_surplus : ConsumerClosed fun s t => surplus t = surplus s where
  refl _ := rfl
  trans h1 h2 := h2.trans h1
  move := ConsumerStep.surplus
  taken _ _ := rfl

theorem surplus_sent (s : State) :
    surplus { s with rsb := s.rsb.put .sentCount (s.rsb.sentCount + 1) } = surplus s + 1 := by
  simp only [surplus, State.outstanding, SharedBlock.put]
  bv_omega

theorem surplus_push (w : Word) (s : State) : surplus { s with queue := s.queue ++ [w] } = surplus s - 1 := by
  simp only [surplus, State.outstanding, List.length_append, List.length_singleton]
  bv_omega

/-- An admission counts the word, and then puts it in the queue (R248). -/
theorem surplus_enqueue {w : Word} {s t : State} (h : enqueue w s = .next t) : surplus t = surplus s := by
  rcases enqueue_next consumerClosed_surplus h with ⟨a, code, ha, rfl⟩ | ⟨a, b, c, ha, hb, hc, rfl⟩
  · exact ha
  · have hslot : surplus { a with rsb := a.rsb.put .message w } = surplus a := rfl
    rw [surplus_push, hc, surplus_sent, hb, hslot, ha, add_sub_cancel_right]

theorem deliveryClosed_surplus (w : Word) : DeliveryClosed w fun s t => surplus t = surplus s where
  refl _ := rfl
  trans h1 h2 := h2.trans h1
  turn := consumerClosed_surplus.turn
  enqueue := surplus_enqueue
  diagnostic _ _ := rfl
  cell _ _ := rfl
  release _ := rfl
  hold _ := rfl
  drawn s := by unfold afterDraw; split <;> rfl

theorem CountInv.of_surplus {s t : State} (h : surplus t = surplus s) (hs : CountInv s) : CountInv t :=
  (countInv_iff_surplus t).mpr (h.trans ((countInv_iff_surplus s).mp hs))

/-- `INIT` empties the queue, the hand and the counts; everything else keeps the surplus. -/
theorem mailboxClosed_countInv : MailboxClosed fun s t => CountInv s → CountInv t where
  refl _ := id
  trans h1 h2 := h2 ∘ h1
  move h := CountInv.of_surplus h.surplus
  taken _ _ := id
  kept h := CountInv.of_surplus (surplus_of_mailbox h)
  send h := CountInv.of_surplus ((deliveryClosed_surplus _).send h)
  enqueue h := CountInv.of_surplus (surplus_enqueue h)
  await h := CountInv.of_surplus ((deliveryClosed_surplus _).await h)
  init _ _ := by simp [CountInv, State.outstanding, initState, SharedBlock.reset]

/-- Settles O11: a word is counted as it is sent, and again by the consumer that removed it. -/
theorem stepKeepsTheOutstandingCount : Obligations.StepKeepsTheOutstandingCount := fun _ _ h =>
  mailboxClosed_countInv.stepClosed.step h

/-! ### The handshake cell (R252) -/

/-- The invariant reads the cell and whether P holds. -/
theorem HandshakeInv.of_mailbox {s t : State} (h : t.mailbox = s.mailbox) (hs : HandshakeInv s) : HandshakeInv t := by
  have hholds : t.held.isSome = s.held.isSome := congrArg Mailbox.holds h
  have hcell : t.rsb.syncCycle = s.rsb.syncCycle := congrArg Mailbox.syncCycle h
  intro ht
  rw [ht, Option.isSome_none, eq_comm, Option.isSome_eq_false_iff, Option.isNone_iff_eq_none] at hholds
  exact hcell.trans (hs hholds)

/-- The consumer writes nothing but SENTINEL to the cell, and does not touch P's hold (R50, R263). -/
theorem consumerClosed_handshakeInv : ConsumerClosed fun s t => HandshakeInv s → HandshakeInv t where
  refl _ := id
  trans h1 h2 := h2 ∘ h1
  taken _ _ := id
  move hm hs ht := by
    cases hm with
    | stay | dequeue | count | acknowledge => exact hs ht
    | finishAcknowledge => rfl
    | own f v hf => rcases hf with rfl | rfl | rfl <;> exact hs ht
    | flip f v g hf => rcases hf with rfl | rfl | rfl <;> exact hs ht

/-- An admission writes neither the cell nor the hold. -/
theorem HandshakeInv.enqueue {w : Word} {s t : State} (h : enqueue w s = .next t) (hs : HandshakeInv s) :
    HandshakeInv t := by
  rcases enqueue_next consumerClosed_handshakeInv h with ⟨a, code, ha, rfl⟩ | ⟨a, b, c, ha, hb, hc, rfl⟩
  · exact ha hs
  · exact hc (hb (ha hs))

/-- A look of the wait ends with P holding, or with SENTINEL in the cell (R253 to R255). -/
theorem handshakeInv_await {w : Word} {s t : State} (h : await w s = .next t) : HandshakeInv t := by
  unfold await at h
  obtain ⟨a, _, h⟩ := andThen_eq_next.mp h
  split at h
  · next hcell => exact HandshakeInv.enqueue h fun _ => hcell
  split at h
  · obtain ⟨b, _, h⟩ := andThen_eq_next.mp h
    exact HandshakeInv.enqueue h fun _ => rfl
  · cases h
    exact nofun

theorem HandshakeInv.send {k : MsgKind} {c : MsgChan} {s t : State} (h : send k c s = .next t) (hs : HandshakeInv s) :
    HandshakeInv t := by
  unfold Machine.send at h
  split at h
  · cases h
    exact hs
  split at h
  · obtain ⟨a, ha, h | h⟩ := syncSend_next consumerClosed_handshakeInv h
    · have hdrawn : HandshakeInv (afterDraw s) := by simpa only [HandshakeInv, afterDraw_held, afterDraw_rsb] using hs
      exact HandshakeInv.enqueue (s := diag .syncFallback a) h (ha hdrawn)
    · exact handshakeInv_await h
  · exact hs.enqueue h

theorem mailboxClosed_handshakeInv : MailboxClosed fun s t => HandshakeInv s → HandshakeInv t where
  toConsumerClosed := consumerClosed_handshakeInv
  kept := HandshakeInv.of_mailbox
  send h hs := hs.send h
  enqueue h hs := hs.enqueue h
  await h _ := handshakeInv_await h
  init _ _ _ := rfl

/-- Settles O12: P writes a target only as it begins to hold, and the wait ends with SENTINEL in the cell. -/
theorem stepKeepsTheHandshakeCell : Obligations.StepKeepsTheHandshakeCell := fun _ _ h =>
  mailboxClosed_handshakeInv.stepClosed.step h

end Sys2Proof.Machine
end

section
/-! The admission of one word while the consumer makes no move (R248), and best-effort delivery, which never holds P
(R249). -/

namespace Sys2Proof.Machine

/-- Settles O52: the threshold is tested first, then the capacity, and a word that passes both is admitted. -/
theorem enqueueAdmission : Obligations.EnqueueAdmission := by
  intro s w hs
  have admission {t : State} (ht : enqueued w s = t) : enqueue w s = .next t := ht ▸ enqueue_silent w hs
  refine ⟨fun hfull => ?threshold, fun hroom hfull => ?capacity, fun hroom hroom' => ?admitted⟩
  case threshold => exact admission (if_pos hfull)
  case capacity => exact admission ((if_neg (Nat.not_le.mpr hroom)).trans (if_pos hfull))
  case admitted => exact admission ((if_neg (Nat.not_le.mpr hroom)).trans (if_neg hroom'))

/-! ### An admission does not touch P's hold -/

theorem consumerClosed_held : ConsumerClosed fun s t => t.held = s.held where
  refl _ := rfl
  trans h1 h2 := h2.trans h1
  move h := producerSide_held (consumerClosed_producerSide.move h)
  taken _ _ := rfl

theorem enqueue_held {w : Word} {s t : State} (h : enqueue w s = .next t) : t.held = s.held := by
  rcases enqueue_next consumerClosed_held h with ⟨a, code, ha, rfl⟩ | ⟨a, b, c, ha, hb, hc, rfl⟩
  · exact ha
  · exact hc.trans (hb.trans ha)

/-- A send that is not cycle-accurate is stopped by a gate, or is `Enqueue` alone (R246, R249). -/
theorem send_held {k : MsgKind} {c : MsgChan} {s t : State} (hsync : s.accurateSync = false)
    (h : send k c s = .next t) : t.held = s.held := by
  unfold send at h
  split at h
  · cases h
    rfl
  · rw [hsync] at h
    exact enqueue_held h

/-! ### An operation in best-effort mode -/

/-- Delivery is best-effort, and P does not hold. -/
def AtOnce (s : State) : Prop := s.accurateSync = false ∧ s.held = none

theorem AtOnce.of_protocolSide {s t : State} (h : protocolSide t = protocolSide s) (hs : AtOnce s) : AtOnce t :=
  ⟨(protocolSide_accurateSync h).trans hs.1, (protocolSide_held h).trans hs.2⟩

theorem AtOnce.of_restSide {s t : State} (h : restSide t = restSide s) : AtOnce s → AtOnce t :=
  AtOnce.of_protocolSide (restSide_protocolSide h)

theorem AtOnce.commit (f : Field) (v : Word) {s : State} (hs : AtOnce s) : AtOnce (commit f v s) :=
  ⟨(commit_accurateSync s f v).trans hs.1, (commit_held s f v).trans hs.2⟩

theorem AtOnce.send {k : MsgKind} {c : MsgChan} {s t : State} (hs : AtOnce s) (h : send k c s = .next t) : AtOnce t :=
  ⟨(recordSide_accurateSync (send_recordSide h)).trans hs.1, (send_held hs.1 h).trans hs.2⟩

theorem AtOnce.enqueue {w : Word} {s t : State} (hs : AtOnce s) (h : enqueue w s = .next t) : AtOnce t :=
  ⟨(recordSide_accurateSync (enqueue_recordSide h)).trans hs.1, (enqueue_held h).trans hs.2⟩

theorem AtOnce.channelWrite {c : Chan} {body : State → State × Bool} (hb : RegisterBody c body) {s t : State}
    (hs : AtOnce s) (h : channelWrite c body s = .next t) : AtOnce t := by
  have hupdate := hs.of_restSide (channelUpdate_rest hb (s.voice c).on s)
  unfold Machine.channelWrite at h
  dsimp only at h
  split at h
  · exact hupdate.send h
  split at h
  · exact hupdate.send h
  · cases h
    exact hupdate

theorem WriteRule.atOnce {i : Instr} {r : State → Result} (hr : WriteRule i r) {s t : State} (hs : AtOnce s)
    (h : r s = .next t) : AtOnce t := by
  cases hr with
  | register hw => exact hs.channelWrite hw.registerBody h
  | mastervol d => exact (hs.of_protocolSide (mastervolUpdate_protocolSide d s)).send h
  | routing d => exact (hs.of_protocolSide (routingUpdate_protocolSide d s)).send h
  | wave | nothing =>
    cases h
    exact hs

theorem AtOnce.runTask {k : Task} {s t : State} (hs : AtOnce s) (h : runTask k s = .next t) : AtOnce t := by
  rcases runTask_eq k s with ⟨a, d, hk⟩ | ⟨w, hk⟩ | hk <;> rw [hk] at h
  · obtain ⟨r, hr, hrun⟩ := dispatch_rule h
    exact hr.atOnce hs hrun
  · exact hs.enqueue h
  · cases h
    exact hs

theorem AtOnce.runTasks {ks : List Task} {s t : State} (hs : AtOnce s) (h : runTasks ks s = .next t) : AtOnce t :=
  runTasks_closed (R := fun s t => AtOnce s → AtOnce t) (fun _ => id) (fun h1 h2 => h2 ∘ h1)
    (fun ts s hs => ⟨hs.1, by rw [deferTasks_held, hs.2]; rfl⟩) (fun _ _ _ _ hk hs => hs.runTask hk) h hs

theorem AtOnce.refresh {after : List Task} {s t : State} (hs : AtOnce s) (h : refresh after s = .next t) : AtOnce t :=
  have hbit : AtOnce { s with masterEnable := masterOf (s.ioByte 0x26#8) } := hs
  (((hbit.commit _ _).commit _ _).commit _ _).runTasks h

/-- `SETSYNC` ends the mode, but sends nothing; every other operation keeps the mode to its end. -/
theorem OperationRule.held_of_atOnce {i : Instr} {r : State → Result} (hr : OperationRule i r) {s t : State}
    (hs : AtOnce s) (h : r s = .next t) : t.held = none := by
  have hheld := hs.2
  cases hr with
  | write hw => exact (hw.atOnce hs h).2
  | masteren d =>
    unfold writeMasteren at h
    split at h
    · exact ((AtOnce.commit .onMask 0 (s := { s with masterEnable := false }) hs).send h).2
    split at h
    · exact ((AtOnce.commit .onMask 0 (s := { s with masterEnable := true }) hs).runTasks h).2
    · cases h
      exact hheld
  | advance e =>
    have hpasses := hs.of_restSide (advancePasses_rest e.toNat s)
    unfold Machine.advance at h
    split at h
    · cases h
    dsimp only at h
    split at h
    · exact (hpasses.send h).2
    · cases h
      exact hpasses.2
  | getnext =>
    cases h
    exact hheld
  | vblank =>
    cases h
    exact (commit_held ..).trans hheld
  | refresh => exact (hs.refresh h).2
  | mute =>
    unfold muteRule at h
    split at h
    · cases h
      exact hheld
    · obtain ⟨u, hword, h⟩ := andThen_eq_next.mp h
      cases h
      split at hword
      · exact (hs.enqueue hword).2
      · cases hword
        exact hheld
  | unmute =>
    unfold unmuteRule at h
    split at h
    · exact (AtOnce.refresh (s := { s with target := .real, muted := false }) hs h).2
    · cases h
      exact hheld
  | setenabled b =>
    unfold setEnabled at h
    split at h
    · exact (AtOnce.refresh (s := { s with soundEnabled := b }) hs h).2
    · cases h
      exact hheld
  | setsync b =>
    cases h
    exact (commit_held ..).trans hheld

theorem execInit_next {s t : State} (h : execInit s = .next t) : t = initState s := by
  unfold execInit at h
  split at h
  · cases h
  split at h
  · cases h
  split at h
  · cases h
  · exact (Host.Outcome.next.inj h).symm

/-- Settles O53: a best-effort send is `Enqueue`, which leaves the hold alone, and no operation begins in a hold. -/
theorem bestEffortNeverHoldsP : Obligations.BestEffortNeverHoldsP := by
  refine ⟨fun k c s hsound hmuted hsync => ?enqueue, fun k c s t => send_held, fun i s t hi hsync h => ?operation⟩
  case enqueue => simp [send, hsound, hmuted, hsync]
  case operation =>
    by_cases hinit : i = .init
    · subst hinit
      rw [execInit_next h]
      rfl
    · obtain ⟨r, hr, hheld, hrun⟩ := exec_operation hi hinit h
      exact hr.held_of_atOnce ⟨hsync, hheld⟩ hrun

end Sys2Proof.Machine
end

section
/-! Cycle-accurate delivery while the consumer makes no move (R250 to R255): the admission that ends it, and the decision
of a `SyncSend`. -/

namespace Sys2Proof.Machine

/-! ### What an admission leaves (R248) -/

theorem enqueue_eq_enqueued (w : Word) {s : State} (hs : s.Silent) : enqueue w s = .next (enqueued w s) :=
  enqueue_silent w hs

theorem enqueued_admission (w : Word) {s : State} (hs : s.Silent) : AdmittedOrDropped w s (enqueued w s) := by
  obtain ⟨t, ht, _, _, hadmission⟩ := enqueue_silent_spec w hs
  cases ht.symm.trans (enqueue_eq_enqueued w hs)
  exact hadmission

/-- What decides an admission, and what it writes to: the configuration, the queue, the slot and the counts (R247,
R248). -/
def State.inbox (s : State) : Config × List Word × Word × Word × Word :=
  (s.cfg, s.queue, s.rsb.message, s.rsb.sentCount, s.rsb.recvCount)

section Inbox

variable {s u : State} (h : u.inbox = s.inbox)
include h

theorem AdmittedOrDropped.congr {w : Word} {t : State} (hdiag : u.diagCount = s.diagCount) (hheld : u.held = s.held)
    (hs : AdmittedOrDropped w s t) : AdmittedOrDropped w u t := by
  simp only [State.inbox, Prod.mk.injEq] at h
  obtain ⟨hcfg, hqueue, hmessage, hsent, hrecv⟩ := h
  simp only [AdmittedOrDropped, State.Admits, State.outstanding, Admitted, Dropped, hcfg, hqueue, hmessage, hsent,
    hrecv, hdiag, hheld]
  exact hs

theorem dropEvents_congr : dropEvents u = dropEvents s := by
  simp only [State.inbox, Prod.mk.injEq] at h
  obtain ⟨hcfg, hqueue, _, hsent, hrecv⟩ := h
  rw [dropEvents, dropEvents, State.outstanding, State.outstanding, hcfg, hqueue, hsent, hrecv]

end Inbox

/-- An admission touches neither the handshake cell nor a draw. -/
theorem enqueued_cell_draws (w : Word) (s : State) :
    (enqueued w s).rsb.syncCycle = s.rsb.syncCycle ∧ (enqueued w s).draws = s.draws
      ∧ (enqueued w s).drawCount = s.drawCount := by
  unfold enqueued
  split
  · exact ⟨rfl, rfl, rfl⟩
  · split <;> exact ⟨rfl, rfl, rfl⟩

theorem enqueued_held (w : Word) (s : State) : (enqueued w s).held = s.held := by
  obtain ⟨_, _, _, _, hheld⟩ := enqueued_modes w s
  exact hheld

/-- The only event of an admission is the diagnostic of a drop (R301). -/
theorem enqueued_events (w : Word) (s : State) : (enqueued w s).events = s.events ++ dropEvents s := by
  unfold enqueued dropEvents
  split
  · rfl
  · split
    · rfl
    · exact (List.append_nil _).symm

/-! ### The decision of a `SyncSend` (R250 to R255) -/

theorem afterDraw_draws (s : State) : (afterDraw s).draws = s.draws.tail := by
  unfold afterDraw
  split
  · next hdraws => rw [hdraws]; rfl
  · next hdraws => rw [hdraws]; rfl

theorem afterDraw_drawCount (s : State) :
    (afterDraw s).drawCount = if s.draws = [] then s.drawCount + 1 else s.drawCount := by
  unfold afterDraw
  split
  · next hdraws => rw [hdraws]; rfl
  · next hdraws => rw [if_pos hdraws]

/-- A `SyncSend` to the cycle `c` delivers at once: the consumer is at or past it, is in a flip or out of phase, or `c`
is no target (R250, R258). -/
def FallsBack (c : Word) (s : State) : Prop :=
  c ≤ s.rsb.consumerCycle ∨ s.rsb.flipInProgress = true ∨ s.rsb.producerFlip ≠ s.rsb.consumerFlip ∨ c = sentinel

/-- The four tests, in the order of R250. -/
theorem fallsBack_iff_tests (c : Word) (s : State) :
    FallsBack c s ↔ (c ≤ s.rsb.consumerCycle ∨ c = sentinel) ∨ s.rsb.flipInProgress = true
      ∨ outOfPhase s.rsb = true := by
  have hphase : outOfPhase s.rsb = true ↔ s.rsb.producerFlip ≠ s.rsb.consumerFlip := bne_iff_ne
  rw [FallsBack, hphase]
  tauto

/-- P with the draw made and the target in the handshake cell (R252). -/
def published (s : State) : State := { afterDraw s with rsb := s.rsb.put .syncCycle (targetCycle s.draw) }

/-- P, holding inside the `SyncSend` of `w` (R253). -/
def waiting (w : Word) (s : State) : State := { s with held := some ⟨w, []⟩ }

/-- P out of the wait, with the target withdrawn and its diagnostic put out (R255). -/
def withdrawn (s : State) : State :=
  diag .syncAbort { s with held := none, rsb := s.rsb.put .syncCycle sentinel }

theorem inbox_afterDraw (s : State) : (afterDraw s).inbox = s.inbox := by
  unfold afterDraw
  split <;> rfl

theorem inbox_published (s : State) : (published s).inbox = s.inbox := by
  simp only [State.inbox, published, afterDraw_cfg, afterDraw_queue, SharedBlock.put]

theorem published_silent {s : State} (hs : s.Silent) : (published s).Silent := (afterDraw_turns s).trans hs

section Decision

variable (w : Word) {s : State} (hs : s.Silent)
include hs

theorem syncSend_fallsBack (hback : FallsBack (targetCycle s.draw) s) :
    syncSend w s = .next (enqueued w (diag .syncFallback (afterDraw s))) := by
  rw [syncSend_silent w hs, if_pos ((fallsBack_iff_tests _ s).mp hback)]
  exact enqueue_eq_enqueued w ((afterDraw_turns s).trans hs)

variable (hgo : ¬FallsBack (targetCycle s.draw) s)
include hgo

/-- With the target written P looks at once: it is no SENTINEL, so the transfer flag decides (R253, R255). -/
theorem syncSend_looks : syncSend w s =
    if (published s).rsb.transferInProgress then enqueue w (withdrawn (published s))
    else .next (waiting w (published s)) := by
  have htarget : (published s).rsb.syncCycle ≠ sentinel := fun hc => hgo (.inr (.inr (.inr hc)))
  rw [syncSend_silent w hs, if_neg ((fallsBack_iff_tests _ s).not.mp hgo)]
  exact (await_silent w (published_silent hs)).trans (if_neg htarget)

theorem syncSend_holds (hflag : s.rsb.transferInProgress = false) :
    syncSend w s = .next (waiting w (published s)) :=
  (syncSend_looks w hs hgo).trans (if_neg (Bool.eq_false_iff.mp hflag))

theorem syncSend_aborts (hflag : s.rsb.transferInProgress = true) :
    syncSend w s = .next (enqueued w (withdrawn (published s))) :=
  (syncSend_looks w hs hgo).trans ((if_pos hflag).trans (enqueue_eq_enqueued w (published_silent hs)))

end Decision

/-- Whatever a `SyncSend` decides, it has consumed one draw (R45, R257). -/
theorem syncSend_draws (w : Word) {s : State} (hs : s.Silent) :
    ∃ t, syncSend w s = .next t ∧ t.draws = (afterDraw s).draws ∧ t.drawCount = (afterDraw s).drawCount := by
  by_cases hback : FallsBack (targetCycle s.draw) s
  · obtain ⟨_, hdraws, hcount⟩ := enqueued_cell_draws w (diag .syncFallback (afterDraw s))
    exact ⟨_, syncSend_fallsBack w hs hback, hdraws, hcount⟩
  cases hflag : s.rsb.transferInProgress with
  | false => exact ⟨_, syncSend_holds w hs hback hflag, rfl, rfl⟩
  | true =>
    obtain ⟨_, hdraws, hcount⟩ := enqueued_cell_draws w (withdrawn (published s))
    exact ⟨_, syncSend_aborts w hs hback hflag, hdraws, hcount⟩

/-- Settles O54: after the draw, the state that each way of the decision leaves is the admission of the word, or the
hold. -/
theorem syncSendDecides : Obligations.SyncSendDecides := by
  intro s k ch c hs haud hsync hc
  obtain ⟨hsound, hmuted⟩ := haud
  have hsend : send k ch s = syncSend (messageWord k ch) s := by simp [send, hsound, hmuted, hsync]
  change c = targetCycle s.draw at hc
  subst hc
  generalize messageWord k ch = w at hsend ⊢
  simp only [hsend]
  refine ⟨trivial, ?draw, fun hback => ?fallBack, fun hgo => ⟨fun hflag => ?hold, fun hflag => ?abort⟩⟩
  case draw =>
    obtain ⟨t, ht, hdraws, hcount⟩ := syncSend_draws w hs
    exact ⟨t, ht, hdraws.trans (afterDraw_draws s), hcount.trans (afterDraw_drawCount s)⟩
  case fallBack =>
    have hsilent : (diag .syncFallback (afterDraw s)).Silent := (afterDraw_turns s).trans hs
    have hinbox : (diag .syncFallback (afterDraw s)).inbox = s.inbox := inbox_afterDraw s
    refine ⟨_, syncSend_fallsBack w hs hback, ?held, ?cell, ?admission, ?events⟩
    case held => exact (enqueued_held w _).trans (afterDraw_held s)
    case cell =>
      rw [(enqueued_cell_draws w _).1, diag_rsb, afterDraw_rsb]
    case admission =>
      refine .congr ?inbox ?count ?released (enqueued_admission w hsilent)
      case inbox => exact hinbox.symm
      case count => rw [diag_diagCount, afterDraw_diagCount]; rfl
      case released => exact (afterDraw_held s).symm
    case events =>
      rw [enqueued_events, diag_events, afterDraw_events, dropEvents_congr hinbox, List.append_assoc]
      rfl
  case hold =>
    exact ⟨_, syncSend_holds w hs hgo hflag, rfl, rfl, afterDraw_queue s, afterDraw_diagCount s, afterDraw_events s⟩
  case abort =>
    have hinbox : (withdrawn (published s)).inbox = s.inbox := inbox_published s
    refine ⟨_, syncSend_aborts w hs hgo hflag, enqueued_held w _, (enqueued_cell_draws w _).1, ?admission, ?events⟩
    case admission =>
      refine .congr ?inbox ?count ?released (enqueued_admission w (s := withdrawn (published s)) (published_silent hs))
      case inbox => exact hinbox.symm
      case count => rw [withdrawn, diag_diagCount, published, afterDraw_diagCount]; rfl
      case released => rfl
    case events =>
      rw [enqueued_events, dropEvents_congr hinbox, withdrawn, diag_events, published, afterDraw_events,
        List.append_assoc]
      rfl

end Sys2Proof.Machine
end

section
/-! The end of a wait (R253 to R255), and what an operation does after it (R180 to R182, R290, R346). -/

namespace Sys2Proof.Machine

/-! ### Sequences -/

theorem andThen_assoc (r : Result) (f k : State → Result) :
    andThen (andThen r f) k = andThen r fun s => andThen (f s) k := by
  cases r <;> rfl

theorem andThen_congr {r : Result} {k k' : State → Result} (h : ∀ t, r = .next t → k t = k' t) :
    andThen r k = andThen r k' := by
  cases r with
  | next t => exact h t rfl
  | fault f => rfl
  | refused x => rfl

/-! ### One look of the wait -/

/-- While P holds, a step is a look of the wait, and with the end of the wait the rest of the operation (R253). -/
theorem step_eq_resume {s : State} {h : Held} (hcfg : configAdmitted s.cfg = true) (hstarted : s.started = true)
    (hheld : s.held = some h) : step s = resume h s := by
  simp [step, nextAction, hcfg, hheld, hstarted]

/-- After an admission outside a wait the rest of the operation runs. -/
theorem andThen_enqueue_released {w : Word} {s : State} (ks : List Task) (hs : s.held = none) :
    (andThen (enqueue w s) fun t => if t.held.isSome then .next (deferTasks ks t) else runTasks ks t)
      = andThen (enqueue w s) (runTasks ks) :=
  andThen_congr fun t ht => by rw [enqueue_held ht, hs]; rfl

section Look

variable {s u : State} {h : Held} (hturn : consumerTurn s = .next u)
include hturn

theorem resume_holds (hheld : u.held = some h) (hcell : u.rsb.syncCycle ≠ sentinel)
    (hflag : u.rsb.transferInProgress = false) : resume h s = .next u := by
  have hlook : await h.word s = .next (waiting h.word u) := by
    rw [await, hturn, andThen_next, if_neg hcell, if_neg (Bool.eq_false_iff.mp hflag)]
    rfl
  have hkept : deferTasks h.rest (waiting h.word u) = { u with held := some h } := rfl
  rw [resume, hlook, andThen_next, hkept, ← hheld]
  rfl

theorem resume_acknowledged (hcell : u.rsb.syncCycle = sentinel) :
    resume h s = andThen (enqueue h.word { u with held := none }) (runTasks h.rest) := by
  rw [resume, await, hturn, andThen_next, if_pos hcell]
  exact andThen_enqueue_released h.rest rfl

theorem resume_aborted (hcell : u.rsb.syncCycle ≠ sentinel) (hflag : u.rsb.transferInProgress = true) :
    resume h s = andThen (consumerTurn { u with held := none }) fun x =>
      andThen (enqueue h.word (diag .syncAbort { x with rsb := x.rsb.put .syncCycle sentinel })) (runTasks h.rest) := by
  rw [resume, await, hturn, andThen_next, if_neg hcell, if_pos hflag, andThen_assoc]
  exact andThen_congr fun x hx => andThen_enqueue_released h.rest (consumerClosed_held.turn hx)

end Look

/-- The end of a wait, in the state `u` that P has left it with, while the consumer makes no move: the word is admitted,
and no record, no global, no commit and no draw is touched. -/
theorem released_silent (w : Word) (ks : List Task) {u : State} (hs : u.Silent) :
    ∃ v, andThen (enqueue w u) (runTasks ks) = runTasks ks v ∧ AdmittedOrDropped w u v ∧ recordSide v = recordSide u
      ∧ v.rsb.syncCycle = u.rsb.syncCycle ∧ v.draws = u.draws ∧ v.events = u.events ++ dropEvents u := by
  have henqueue := enqueue_eq_enqueued w hs
  obtain ⟨hcell, hdraws, _⟩ := enqueued_cell_draws w u
  exact ⟨enqueued w u, by rw [henqueue, andThen_next], enqueued_admission w hs, enqueue_recordSide henqueue, hcell,
    hdraws, enqueued_events w u⟩

/-! ### Tasks -/

theorem runTasks_released {k : Task} {ks : List Task} {s u : State} (hk : runTask k s = .next u) (hu : u.held = none) :
    runTasks (k :: ks) s = runTasks ks u := by
  rw [runTasks, hk, andThen_next, hu]
  rfl

theorem runTasks_held {k : Task} {ks : List Task} {s u : State} {h : Held} (hk : runTask k s = .next u)
    (hu : u.held = some h) : runTasks (k :: ks) s = .next { u with held := some ⟨h.word, h.rest ++ ks⟩ } := by
  rw [runTasks, hk, andThen_next, hu, deferTasks, hu]
  rfl

/-- Outside the master enable, a dispatch runs what an issued `WRITE` runs (R120, R180). -/
theorem exec_dispatched {a d : Byte} {s : State} (hs : s.Ready) (ha : a ≠ 0x26#8) :
    exec (dispatched a d) s = dispatch a d s := by
  unfold dispatch dispatched decodeWrite
  split
  case h_2 =>
    unfold decodeWrite1
    split <;> exact issue_of_ready hs _
  case h_3 hhi =>
    unfold decodeWrite2
    split
    case h_7 hlo => exact absurd (byte_digits hhi hlo) ha
    all_goals exact issue_of_ready hs _
  all_goals exact issue_of_ready hs _

/-- The digits of an address, as the word of its `WRITE` has them. -/
theorem writeWord_digits (a d : Byte) :
    writeWord (a.toNat / 16) (a.toNat % 16) d = writeWord (a.extractLsb' 4 4).toNat (a.extractLsb' 0 4).toNat d := by
  have hlt := a.isLt
  have hhi : (a.extractLsb' 4 4).toNat = a.toNat / 16 := by
    rw [BitVec.extractLsb'_toNat, Nat.shiftRight_eq_div_pow]
    omega
  have hlo : (a.extractLsb' 0 4).toNat = a.toNat % 16 := by
    rw [BitVec.extractLsb'_toNat, Nat.shiftRight_zero]
  rw [hhi, hlo]

theorem runWord_write {a d : Byte} {s : State} (hs : s.Ready) (ha : a ≠ 0x26#8) :
    runWord (writeWord (a.toNat / 16) (a.toNat % 16) d) s = dispatch a d s := by
  rw [writeWord_digits, runWord_ok (decodeOperation_writeWord _ _ d)]
  exact exec_dispatched hs ha

theorem isTrigReg_iff (a : Byte) : isTrigReg a = true ↔ a = 0x14#8 ∨ a = 0x19#8 ∨ a = 0x1E#8 ∨ a = 0x23#8 := by
  simp [isTrigReg, or_assoc]

theorem trigReg_ne_masteren (c : Chan) : trigReg c ≠ 0x26#8 := by cases c <;> decide

/-- Settles O55: a look of the wait has three outcomes, each followed by the tasks; a task runs what the issued `WRITE`
of its byte runs. -/
theorem theWaitHoldsAndEnds : Obligations.TheWaitHoldsAndEnds := by
  refine ⟨fun s u h hcfg hstarted hheld hturn => ?look,
    fun k ks s u hk => ⟨runTasks_released hk, fun h => runTasks_held hk⟩, fun s => rfl,
    fun s hs => ⟨fun a d _ _ ha hd => ?bulk, fun c a prev ha => ?retrigger, rfl⟩⟩
  case look =>
    rw [step_eq_resume hcfg hstarted hheld]
    have hkept : u.held = some h := (consumerClosed_held.turn hturn).trans hheld
    refine ⟨resume_holds hturn hkept, fun hcell => ⟨resume_acknowledged hturn hcell, fun hs => ?acknowledged⟩,
      fun hcell hflag => ⟨resume_aborted hturn hcell hflag, fun hs => ?aborted⟩⟩
    case acknowledged =>
      obtain ⟨v, hrest, hadmission, hrecord, hcellv, hdraws, hevents⟩ :=
        released_silent h.word h.rest (u := { u with held := none }) hs
      exact ⟨v, (resume_acknowledged hturn hcell).trans hrest, hadmission, hrecord, hcellv.trans hcell, hdraws, hevents⟩
    case aborted =>
      obtain ⟨v, hrest, hadmission, hrecord, hcellv, hdraws, hevents⟩ :=
        released_silent h.word h.rest (u := withdrawn u) hs
      have hresume := resume_aborted (h := h) hturn hcell hflag
      rw [consumerTurn_silent (by exact hs), andThen_next] at hresume
      refine ⟨v, hresume.trans hrest, hcellv, hrecord.trans (messageClosed_recordSide.diagnostic _ _), hadmission,
        hdraws, ?_⟩
      rw [hevents, withdrawn, diag_events, List.append_assoc]
      rfl
  case bulk =>
    have hbyte : bulkByte a s = d := by
      rw [hd, bulkByte]
      simp only [isTrigReg_iff]
      rfl
    rw [runWord_write hs ha, ← hbyte]
    rfl
  case retrigger =>
    have ha' : a = trigReg c := by cases c <;> exact ha
    subst ha'
    rw [runWord_write hs (trigReg_ne_masteren c), runTask]
    simp only [Bool.and_eq_true]
    rfl

end Sys2Proof.Machine
end

section
/-! The consumer's moves, each when it is due and when it is not (R262 to R266), and its accesses by address (R267,
R309). -/

namespace Sys2Proof.Machine

/-! ### Each move when it is due -/

section Moves

variable {s : State}

theorem dequeue_due {w : Word} {rest : List Word} (hhand : s.consumer.dequeued = none) (hqueue : s.queue = w :: rest) :
    consumerDequeue s = { s with queue := rest, consumer := { s.consumer with dequeued := some w } } := by
  simp only [consumerDequeue, hhand, hqueue]

theorem finishDequeue_due {w : Word} (hhand : s.consumer.dequeued = some w) (hform : IsForm w) :
    consumerFinishDequeue s = .next (countMessage s) := by
  obtain ⟨i, hi⟩ := Option.isSome_iff_exists.mp hform
  exact consumerFinishDequeue_form hhand hi

theorem acknowledge_due (hidle : s.consumer.acknowledging = false) (hcell : s.rsb.syncCycle ≠ sentinel) :
    consumerAcknowledge s =
      { s with
        rsb := { s.rsb with consumerCycle := s.rsb.syncCycle }
        consumer := { s.consumer with acknowledging := true } } := if_pos ⟨hidle, hcell⟩

theorem finishAcknowledge_due (hdue : s.consumer.acknowledging = true) :
    consumerFinishAcknowledge s =
      { s with
        rsb := { s.rsb with syncCycle := sentinel }
        consumer := { s.consumer with acknowledging := false } } := if_pos hdue

theorem flipBegin_due (hflip : s.rsb.flipInProgress = false) :
    consumerFlipBegin s = { s with rsb := { s.rsb with flipInProgress := true } } :=
  if_neg (Bool.eq_false_iff.mp hflip)

theorem flipEnd_due (hflip : s.rsb.flipInProgress = true) (hidle : s.consumer.flipStage = .idle) :
    consumerFlipEnd s =
      { s with
        rsb := { s.rsb with consumerFlip := !s.rsb.consumerFlip }
        consumer := { s.consumer with flipStage := .clearCycle } } := by
  rw [consumerFlipEnd, if_pos ⟨hflip, hidle⟩, SharedBlock.put, flagWord_bit]

theorem continueFlip_clearCycle (hstage : s.consumer.flipStage = .clearCycle) :
    consumerContinueFlip s =
      { s with
        rsb := { s.rsb with consumerCycle := 0 }
        consumer := { s.consumer with flipStage := .clearProgress } } := by
  rw [consumerContinueFlip, hstage]
  rfl

theorem continueFlip_clearProgress (hstage : s.consumer.flipStage = .clearProgress) :
    consumerContinueFlip s =
      { s with
        rsb := { s.rsb with flipInProgress := false }
        consumer := { s.consumer with flipStage := .idle } } := by
  rw [consumerContinueFlip, hstage]
  rfl

theorem transfer_eq (b : Bool) (s : State) :
    consumerTransfer b s = { s with rsb := { s.rsb with transferInProgress := b } } := by
  rw [consumerTransfer, SharedBlock.put, flagWord_bit]

/-! ### Each move when it is not due -/

theorem dequeue_stays (h : s.consumer.dequeued ≠ none ∨ s.queue = []) : consumerDequeue s = s := by
  unfold consumerDequeue
  split
  · next hhand hqueue =>
    rcases h with h | h
    · exact absurd hhand h
    · cases hqueue.symm.trans h
  · rfl

theorem finishDequeue_stays (h : s.consumer.dequeued = none) : consumerFinishDequeue s = .next s := by
  rw [consumerFinishDequeue, h]

theorem acknowledge_stays (h : s.consumer.acknowledging = true ∨ s.rsb.syncCycle = sentinel) :
    consumerAcknowledge s = s := by
  refine if_neg fun ⟨hidle, hcell⟩ => ?_
  rcases h with h | h
  · exact Bool.false_ne_true (hidle.symm.trans h)
  · exact hcell h

theorem flipEnd_stays (h : s.rsb.flipInProgress = false ∨ s.consumer.flipStage ≠ .idle) : consumerFlipEnd s = s := by
  refine if_neg fun ⟨hflip, hidle⟩ => ?_
  rcases h with h | h
  · exact Bool.false_ne_true (h.symm.trans hflip)
  · exact h hidle

theorem continueFlip_stays (h : s.consumer.flipStage = .idle) : consumerContinueFlip s = s := by
  rw [consumerContinueFlip, h]

/-! ### Whole moves -/

/-- Acknowledge, both steps: the target is the position, and the cell is free again (R263). -/
theorem acknowledge_whole (hidle : s.consumer.acknowledging = false) (hcell : s.rsb.syncCycle ≠ sentinel) :
    consumerFinishAcknowledge (consumerAcknowledge s)
      = { s with rsb := { s.rsb with consumerCycle := s.rsb.syncCycle, syncCycle := sentinel } } := by
  rw [acknowledge_due hidle hcell, finishAcknowledge_due rfl, ← hidle]

/-- FlipEnd, its three steps (R265). -/
theorem flipEnd_whole (hflip : s.rsb.flipInProgress = true) (hidle : s.consumer.flipStage = .idle) :
    consumerContinueFlip (consumerContinueFlip (consumerFlipEnd s))
      = { s with rsb := { s.rsb with
          consumerFlip := !s.rsb.consumerFlip, consumerCycle := 0, flipInProgress := false } } := by
  have hclear := (congrArg consumerContinueFlip (flipEnd_due hflip hidle)).trans (continueFlip_clearCycle rfl)
  rw [hclear, continueFlip_clearProgress rfl, ← hidle]

end Moves

/-! ### Accesses by address -/

section Accesses

variable {s : State} (hcfg : configAdmitted s.cfg = true)
include hcfg

theorem read_field (f : Field) :
    consumerMove (.read (s.cfg.rsbAddr + BitVec.ofNat 32 f.offset) f.size) s = .next s := by
  obtain ⟨hfield, hoff⟩ := fieldAt_offset f
  simp only [consumerMove, consumerRead, locate_rsb_byte (rangesApart_of_admitted hcfg) hoff, hfield]

theorem read_sampleBuf {k n : Nat} (hk : k < sampleBufSize) (hn : k + n ≤ sampleBufSize) :
    consumerMove (.read (s.cfg.sampleBufAddr + BitVec.ofNat 32 k) n) s = .next s := by
  simp only [consumerMove, consumerRead, locate_buf_byte (rangesApart_of_admitted hcfg) hk, if_pos hn]

theorem read_dummyBlock {k : Nat} (hk : k < blockSize) (n : Nat) :
    consumerMove (.read (s.cfg.dsbAddr + BitVec.ofNat 32 k) n) s = .fault .dummyBlockRead := by
  simp only [consumerMove, consumerRead, locate_dsb_byte (rangesApart_of_admitted hcfg) hk]

/-- A write of a value that fits the field is the write of that value. -/
theorem write_field {f : Field} {v : Word} (hv : v.toNat < 256 ^ f.size) :
    consumerMove (.write (s.cfg.rsbAddr + BitVec.ofNat 32 f.offset) f.size v) s = consumerPut f v s := by
  rw [consumerMove_write_field hcfg, Nat.mod_eq_of_lt hv, BitVec.ofNat_toNat, BitVec.setWidth_eq]

end Accesses

/-- Settles O56: each move by its condition, and each access by the place it falls in. -/
theorem consumerMovesFollowTheirRules : Obligations.ConsumerMovesFollowTheirRules := by
  refine ⟨fun s => ?moves, fun s hcfg => ?accesses⟩
  case moves =>
    exact ⟨fun w rest hhand hqueue => congrArg _ (dequeue_due hhand hqueue),
      fun w => finishDequeue_due,
      fun hidle hcell => congrArg _ (acknowledge_due hidle hcell),
      fun hdue => congrArg _ (finishAcknowledge_due hdue),
      fun hidle hcell => congrArg _ (acknowledge_whole hidle hcell),
      fun x => rfl,
      fun hflip => congrArg _ (flipBegin_due hflip),
      fun hflip hidle => congrArg _ (flipEnd_due hflip hidle),
      fun hstage => congrArg _ (continueFlip_clearCycle hstage),
      fun hstage => congrArg _ (continueFlip_clearProgress hstage),
      fun hflip hidle => congrArg _ (flipEnd_whole hflip hidle),
      fun b => congrArg _ (transfer_eq b s),
      fun h => congrArg _ (dequeue_stays h),
      finishDequeue_stays,
      fun h => congrArg _ (acknowledge_stays h),
      fun h => congrArg _ (if_neg (Bool.eq_false_iff.mp h)),
      fun h => congrArg _ (if_pos h),
      fun h => congrArg _ (flipEnd_stays h),
      fun h => congrArg _ (continueFlip_stays h)⟩
  case accesses =>
    have word {f : Field} (hf : f.size = 4) (v : Word) : v.toNat < 256 ^ f.size := by rw [hf]; exact v.isLt
    refine ⟨read_field hcfg, fun k n => read_sampleBuf hcfg, fun k n hk => read_dummyBlock hcfg hk n, ?recvCount,
      ?syncCycle, fun x => ?consumerCycle, ?consumerFlip, ?flipBegin, fun hstage => ?flipClear, ?transferUp,
      ?transferDown⟩
    case recvCount => exact (write_field hcfg (f := .recvCount) (word rfl _)).trans (if_pos rfl)
    case syncCycle => exact (write_field hcfg (f := .syncCycle) (word rfl _)).trans rfl
    case consumerCycle => exact write_field hcfg (f := .consumerCycle) (word rfl x)
    case consumerFlip =>
      have hvalue : (if s.rsb.consumerFlip = true then 0#32 else 1#32) = flagWord !s.rsb.consumerFlip := by
        cases s.rsb.consumerFlip <;> rfl
      have hbit : (flagWord !s.rsb.consumerFlip).toNat < 256 ^ Field.consumerFlip.size := by
        cases s.rsb.consumerFlip <;> decide
      rw [hvalue]
      exact (write_field hcfg (f := .consumerFlip) hbit).trans (if_pos rfl)
    case flipBegin => exact (write_field hcfg (f := .flipInProgress) (by decide)).trans rfl
    case flipClear =>
      refine (write_field hcfg (f := .flipInProgress) (by decide)).trans ?_
      rw [consumerPut, if_neg (by decide), if_pos ⟨rfl, hstage⟩]
      rfl
    case transferUp => exact (write_field hcfg (f := .transferInProgress) (by decide)).trans rfl
    case transferDown => exact (write_field hcfg (f := .transferInProgress) (by decide)).trans rfl

end Sys2Proof.Machine
end

section
/-! The lifecycle and frame operations (R280 to R297). -/

namespace Sys2Proof.Machine

/-! ### INIT (R280, R281, R331) -/

/-- `INIT` converts the wave RAM as a resync does, from an empty buffer (R233). -/
theorem convertAll_eq_convertedOver (cfg : Config) (io : Memory) (n : Nat) :
    convertAll cfg io n = convertedOver cfg io [] n := by
  induction n with
  | zero => rfl
  | succ n ih => rw [convertAll, convertedOver_succ, ih]

theorem initState_converted (s : State) : ConvertedFrom s.cfg s.io (initState s) := by
  obtain ⟨_, hsamples⟩ := convertedOver_samples s.cfg (m := []) rfl s.io 16
  have hbuf : (initState s).sampleBuf = convertedOver s.cfg s.io [] 16 := by
    simp only [initState, convertAll_eq_convertedOver]
  unfold ConvertedFrom
  rw [hbuf]
  exact fun j => hsamples j j.isLt

theorem reset_get (cfg : Config) (f : Field) : (SharedBlock.reset cfg).get f
    = if f = .syncCycle then sentinel else if f = .sampleBufPtr then cfg.sampleBufAddr else 0#32 := by
  cases f with
  | vol i | freq i | pan i | duty i => cases i <;> rfl
  | _ => rfl

/-- R281, R330: the first `INIT` is admitted, and a later one while neither P nor the consumer is inside a move. -/
theorem execInit_admitted {s : State} (hcfg : configAdmitted s.cfg = true)
    (hidle : s.started = true → s.held = none ∧ s.consumerActive = false) : execInit s = .next (initState s) := by
  by_cases hstarted : s.started = true
  · obtain ⟨hheld, hconsumer⟩ := hidle hstarted
    exact (execInit_ready ⟨hcfg, hstarted, hheld⟩).trans (if_neg (by simp [hconsumer]))
  · simp [execInit, hcfg, hstarted]

theorem consumerActive_iff (s : State) : s.consumerActive = true
    ↔ s.consumer.dequeued ≠ none ∨ s.consumer.acknowledging = true ∨ s.consumer.flipStage ≠ .idle := by
  simp [State.consumerActive, Option.isSome_iff_ne_none, or_assoc]

/-- Settles O47: an admitted `INIT` builds the reset state, and the guard tests P's hold before the consumer's moves. -/
theorem initGivesTheResetValues : Obligations.InitGivesTheResetValues := by
  refine ⟨fun s hcfg hidle => ?admitted, fun s hcfg hstarted => ⟨fun hheld => ?holding, fun hheld hmove => ?moving⟩⟩
  case admitted =>
    refine ⟨initState s, execInit_admitted hcfg hidle, rfl, rfl, rfl, rfl, rfl, rfl, rfl, rfl, rfl, rfl, rfl, rfl, rfl,
      initState_converted s, rfl, fun f => ?fields, rfl, rfl, rfl, rfl, rfl, rfl, rfl, rfl, rfl, rfl, rfl, rfl⟩
    case fields =>
      refine (reset_get s.cfg f).trans ?_
      cases f <;> rfl
  case holding =>
    have hsome : s.held.isSome = true := Option.isSome_iff_ne_none.mpr hheld
    exact (if_neg (by simp [hcfg])).trans (if_pos ⟨hstarted, hsome⟩)
  case moving =>
    exact (execInit_ready ⟨hcfg, hstarted, hheld⟩).trans (if_pos ((consumerActive_iff s).mpr hmove))

/-! ### MUTE (R289, R259) -/

/-- A `MUTE` that mutes: the Mute word is admitted or dropped while P is enabled, and then P is redirected. -/
theorem muteRule_redirects {s : State} (hs : s.Silent) (hm : s.muted = false) :
    ∃ v, muteRule s = .next { v with target := .dummy, muted := true } ∧ sentSide v = sentSide s
      ∧ (s.soundEnabled = true → AdmittedOrDropped 0x3F#32 s v) ∧ (s.soundEnabled = false → v = s) := by
  have hrule : muteRule s = andThen (if s.soundEnabled then enqueue 0x3F#32 s else .next s)
      fun v => .next { v with target := .dummy, muted := true } := if_neg (by simp [hm])
  rw [hrule]
  by_cases he : s.soundEnabled = true
  · obtain ⟨v, hv, hside, _, hadmission⟩ := enqueue_silent_spec 0x3F#32 hs
    exact ⟨v, by rw [if_pos he, hv, andThen_next], hside, fun _ => hadmission, fun hd => by simp [he] at hd⟩
  · exact ⟨s, by rw [if_neg he, andThen_next], rfl, fun he' => absurd he' he, fun _ => rfl⟩

/-- Settles O48: the admission of the Mute word touches the protocol's fields only, and the redirection no memory. -/
theorem muteRedirectsToTheDummyBlock : Obligations.MuteRedirectsToTheDummyBlock := by
  intro s hready hs
  refine ⟨fun hm => (issue_of_ready hready _).trans (if_pos hm), fun hm => ?redirects⟩
  obtain ⟨v, hv, hside, hopen, hclosed⟩ := muteRule_redirects hs hm
  have hrecord := recordSide_of_sentSide hside
  have hchannels : ChannelsKept s v := ledger_channels (ledger_of_recordSide hrecord)
  have hbytes : BytesKept s v := recordSide_bytes hrecord
  have hnext : v.nextEvent = s.nextEvent := recordSide_nextEvent hrecord
  have houtput : NoOutput s v := recordSide_events hrecord
  obtain ⟨hcfg, hmaster, hsound, _, _, hsync, hstarted, hbuf, hio, hstream⟩ := recordSide_modes hrecord
  refine ⟨_, (issue_of_ready hready _).trans hv, rfl, rfl, hopen, fun he => ?nothing,
    hchannels, hbytes, ⟨hcfg, hmaster, hsound, rfl, rfl, hsync, hstarted, hbuf, hio, hstream⟩, hnext, houtput,
    fun a _ ha _ => sentSide_memByte hside ha⟩
  case nothing =>
    rw [hclosed he]
    exact ⟨rfl, rfl, rfl, rfl, rfl⟩

/-! ### The tasks of a resync when the mode or the gate keeps P from holding (R246, R249) -/

/-- No `Send` holds P, whatever the consumer does: P is disabled, or delivery is best-effort. -/
def Unheld (s : State) : Prop := (s.soundEnabled = false ∨ s.accurateSync = false) ∧ s.held = none

theorem Unheld.runTask {k : Task} (hk : k ≠ .unmuteWord) {s t : State} (hs : Unheld s)
    (h : runTask k s = .next t) : Unheld t := by
  obtain ⟨hdisabled | hsync, hheld⟩ := hs
  · obtain ⟨i, r, hr, hrun⟩ := runTask_rule hk s
    obtain ⟨hdisabled', _, _, _, _, hheld'⟩ := operationClosed_keepsDisabled.write hr (hrun.symm.trans h) hdisabled
    exact ⟨.inl hdisabled', hheld' hheld⟩
  · obtain ⟨hsync', hheld'⟩ := AtOnce.runTask ⟨hsync, hheld⟩ h
    exact ⟨.inr hsync', hheld'⟩

theorem Unheld.runTasks_append {ks : List Task} (hks : ∀ k ∈ ks, k ≠ .unmuteWord) (ks' : List Task) {s : State}
    (hs : Unheld s) : runTasks (ks ++ ks') s = andThen (runTasks ks s) (runTasks ks') := by
  induction ks generalizing s with
  | nil => rfl
  | cons k ks ih =>
    rw [List.cons_append, runTasks, runTasks, andThen_assoc]
    refine andThen_congr fun t ht => ?_
    have ht' := hs.runTask (hks k List.mem_cons_self) ht
    have ⟨_, hheld⟩ := ht'
    rw [hheld]
    exact ih (fun k hk => hks k (List.mem_cons_of_mem _ hk)) ht'

theorem Unheld.commit (f : Field) (v : Word) {s : State} (hs : Unheld s) : Unheld (commit f v s) := by
  simpa [Unheld] using hs

theorem Unheld.calm {s : State} (hs : Unheld s) (hsilent : s.Silent) : s.Calm := by
  obtain ⟨hmode, hheld⟩ := hs
  exact ⟨hsilent, fun haud => hmode.resolve_left (by simp [haud.1]), hheld⟩

theorem deferTasks_nil (s : State) : deferTasks [] s = s := by
  simp [deferTasks]

theorem runTasks_singleton (k : Task) (s : State) : runTasks [k] s = runTask k s := by
  rw [runTasks]
  cases runTask k s with
  | next t => simp [deferTasks_nil, runTasks]
  | fault f => rfl
  | refused x => rfl

/-! ### UNMUTE and SETENABLED (R290 to R292) -/

theorem refresh_after_eq (after : List Task) (s : State) :
    refresh after s = runTasks (resyncWork s ++ after) (commit .onMask 0 (refreshUpdate s)) := by
  rw [← resyncTasks_eq (fun c => by rw [refreshUpdate_voice]), List.append_nil, refresh, resync]

theorem unmuteRule_muted {s : State} (hm : s.muted = true) :
    unmuteRule s = refresh [.unmuteWord] { s with target := .real, muted := false } := if_pos hm

theorem Unheld.refreshUpdate {s : State} (hs : Unheld s) : Unheld (refreshUpdate s) :=
  have hbit : Unheld { s with masterEnable := masterOf (s.ioByte 0x26#8) } := hs
  (hbit.commit _ _).commit _ _

/-- With nothing to hold P, what follows a refresh runs after it. -/
theorem Unheld.refresh_after {s : State} (hs : Unheld s) (after : List Task) :
    refresh after s = andThen (refresh [] s) (runTasks after) := by
  rw [refresh_after_eq, refresh_eq, (hs.refreshUpdate.commit _ _).runTasks_append (resyncWork_dispatches s)]

/-- A refresh that nothing can hold completes with the messages of R183 (R285). -/
theorem refresh_calm {s : State} (hs : s.Calm) : ∃ t, refresh [] s = .next t ∧ t.Calm
    ∧ t.soundEnabled = s.soundEnabled ∧ t.muted = s.muted ∧ t.target = s.target
    ∧ mailSide t = mailSide (deliveredAll (resyncMessages (masterOf (s.ioByte 0x26#8)) s) s) := by
  have hstart := resyncStart_refresh s
  obtain ⟨t, ht, hkeeps, _, hmail⟩ := hstart.run hs
  obtain ⟨_, _, hsound, hmuted, htarget, _⟩ := hstart.modes
  obtain ⟨_, _, hsound', hmuted', htarget', _⟩ := hkeeps.frame.modes
  exact ⟨t, (refresh_eq s).trans ht, hkeeps.calm, hsound'.trans hsound, hmuted'.trans hmuted,
    htarget'.trans htarget, hmail⟩

/-- While P is not muted, the last line of UNMUTE delivers the Unmute word (R259, R290). -/
theorem runTask_unmuteWord {s : State} (hs : s.Silent) (hm : s.muted = false) :
    runTask .unmuteWord s = .next (delivered (messageWord .unmute .all) s) := by
  rw [runTask]
  by_cases he : s.soundEnabled = true
  · rw [if_pos he, delivered_open ⟨he, hm⟩, enqueue_eq_enqueued _ hs]
  · rw [if_neg he, delivered_closed fun ha => he ha.1]

/-- R290, R183: the messages of the refresh, and the Unmute word last. -/
theorem refresh_then_unmuteWord {s : State} (hs : Unheld s) (hsilent : s.Silent) (hm : s.muted = false) :
    ∃ t, refresh [.unmuteWord] s = .next t ∧ t.target = s.target ∧ t.muted = false
      ∧ SendsAll (resyncMessages (masterOf (s.ioByte 0x26#8)) s ++ [messageWord .unmute .all]) s t := by
  obtain ⟨t, ht, hcalm, _, hmuted, htarget, hmail⟩ := refresh_calm (hs.calm hsilent)
  obtain ⟨hsilent', hnever, _⟩ := hcalm
  have hword := runTask_unmuteWord hsilent' (hmuted.trans hm)
  have hside := send_recordSide (send_delivered .unmute .all hsilent' hnever)
  refine ⟨delivered (messageWord .unmute .all) t, ?runs, (recordSide_target hside).trans htarget,
    (recordSide_muted hside).trans (hmuted.trans hm), sendsAll_of_mailSide hsilent ?mail⟩
  case runs => rw [hs.refresh_after, ht, andThen_next, runTasks_singleton, hword]
  case mail =>
    rw [deliveredAll_append]
    exact mailSide_deliveredAll hmail [messageWord .unmute .all]

theorem operationClosed_soundEnabled : OperationClosed fun s t => t.soundEnabled = s.soundEnabled where
  own {s t} h := congrArg State.soundEnabled (a₁ := sharedSide t) (a₂ := sharedSide s) h
  trans h h' := h'.trans h
  commit {f} v s _ := commit_soundEnabled s f v
  send h := recordSide_soundEnabled (send_recordSide h)
  deferred _ _ := rfl

theorem setEnabled_opens {s : State} (he : s.soundEnabled = false) :
    setEnabled true s = refresh [] { s with soundEnabled := true } := if_pos ⟨he, rfl⟩

/-- Any other `SETENABLED` stores the flag only (R291). -/
theorem setEnabled_stores {b : Bool} {s : State} (h : b = true → s.soundEnabled = true) :
    setEnabled b s = .next { s with soundEnabled := b } :=
  if_neg fun ⟨he, hb⟩ => by simp [h hb] at he

/-- Settles O49: both operations are a refresh with the gate open; the Unmute word goes in as its last task. -/
theorem unmuteAndEnableRefresh : Obligations.UnmuteAndEnableRefresh := by
  intro s hready
  have ⟨_, _, hheld⟩ := hready
  have hexec (u : State) (hu : u.Ready) : exec .refresh u = refresh [] u := issue_of_ready hu _
  have hunmute : exec .unmute s = unmuteRule s := issue_of_ready hready _
  have hset (b : Bool) : exec (.setenabled b) s = setEnabled b s := issue_of_ready hready _
  refine ⟨fun hm => hunmute.trans (if_neg (by simp [hm])), fun u hm hu hmode => ?unmute, fun u hm hu => ?passes,
    fun u he hu => ?enable, fun he => ?enabled, (hset false).trans (setEnabled_stores (by simp))⟩
  case unmute =>
    have hrule : exec .unmute s = refresh [.unmuteWord] u := by rw [hunmute, unmuteRule_muted hm, hu]
    have hunheld : Unheld u := ⟨hmode, by rw [hu]; exact hheld⟩
    have hreadyu : u.Ready := by rw [hu]; exact hready
    rw [hexec u hreadyu, hrule]
    refine ⟨?sequence, fun hs => ?completes⟩
    case sequence =>
      rw [hunheld.refresh_after]
      exact andThen_congr fun v _ => runTasks_singleton .unmuteWord v
    case completes =>
      subst hu
      exact refresh_then_unmuteWord hunheld hs rfl
  case passes =>
    subst hu
    rw [hunmute, unmuteRule_muted hm, refresh_after_eq]
    rfl
  case enable =>
    have hrule : exec (.setenabled true) s = refresh [] u := by rw [hset, setEnabled_opens he, hu]
    have hreadyu : u.Ready := by rw [hu]; exact hready
    rw [hexec u hreadyu, hrule]
    subst hu
    refine ⟨rfl, fun hs hnever => ?messages, fun hs => ?completes⟩
    case messages =>
      obtain ⟨t, ht, _, hsound, _, _, hmail⟩ :=
        refresh_calm (s := { s with soundEnabled := true }) ⟨hs, hnever, hheld⟩
      exact ⟨t, ht, hsound, sendsAll_of_mailSide hs hmail⟩
    case completes =>
      obtain ⟨t, ht⟩ := refresh_completes [] (s := { s with soundEnabled := true }) hs
      exact ⟨t, ht, operationClosed_soundEnabled.refresh (List.forall_mem_nil _) ht⟩
  case enabled =>
    rw [hset, setEnabled_stores fun _ => he, ← he]

/-! ### VBLANK, SETSYNC and GETNEXT (R293, R295, R297) -/

theorem put_producerFlip_flag (b : SharedBlock) (x : Bool) :
    b.put .producerFlip (flagWord x) = { b with producerFlip := x } := by rw [SharedBlock.put, flagWord_bit]

theorem put_hyperSync_flag (b : SharedBlock) (x : Bool) :
    b.put .hyperSync (flagWord x) = { b with hyperSync := x } := by rw [SharedBlock.put, flagWord_bit]

/-- Settles O50: each rule stores its flag and commits it, which the gate stops or the target directs. -/
theorem frameFlipAndSyncMode : Obligations.FrameFlipAndSyncMode := by
  intro s b hready
  have hvblank : exec .vblank s = .next (vblankUpdate s) := issue_of_ready hready _
  have hsetsync : exec (.setsync b) s = .next (syncUpdate b s) := issue_of_ready hready _
  rw [hvblank, hsetsync]
  simp only [vblankUpdate, syncUpdate, commit, put_producerFlip_flag, put_hyperSync_flag]
  cases s.soundEnabled with
  | false => exact ⟨rfl, rfl⟩
  | true =>
    cases s.target with
    | real => exact ⟨rfl, rfl⟩
    | dummy => exact ⟨rfl, rfl⟩

theorem exec_getnext {s : State} (hready : s.Ready) :
    exec .getnext s = .next { s with events := s.events ++ [.nextEvent s.nextEvent] } := issue_of_ready hready _

/-- Settles O51: the output is all that `GETNEXT` adds, so the second one finds the same minimum. -/
theorem getNextReturnsTheMinimum : Obligations.GetNextReturnsTheMinimum := by
  intro s hready
  refine ⟨exec_getnext hready, ?twice⟩
  rw [exec_getnext hready, andThen_next, exec_getnext (by exact hready), List.append_assoc]
  rfl

end Sys2Proof.Machine
end

section
/-! The reset state (R280, R331). -/

namespace Sys2Proof.Machine

/-! ### The records at reset -/

theorem reset_voice (c : Chan) : State.reset.voice c = Voice.reset := by cases c <;> rfl

theorem reset_off (c : Chan) : (State.reset.voice c).on = false := congrArg Voice.on (reset_voice c)

theorem reset_env {c : Chan} {v : Envelope} (h : State.reset.env c = some v) : v = Envelope.reset := by
  cases c with
  | c0 | c1 | c3 => exact (Option.some.inj h).symm
  | c2 => cases h

/-! ### The invariants of a machine with every channel off -/

/-- The bound of R22 speaks of channels that are on. -/
theorem freqInv_of_off {s : State} (hoff : ∀ c, (s.voice c).on = false) : FreqInv s := fun c hon =>
  absurd hon (Bool.eq_false_iff.mp (hoff c))

/-- No timer of a channel that is off runs (R212). -/
theorem nextEventInv_of_off {s : State} (hoff : ∀ c, (s.voice c).on = false) : NextEventInv s := fun c _ hn =>
  absurd (mem_runningCounters.mp hn).1 (Bool.eq_false_iff.mp (hoff c))

/-! ### The invariants at reset -/

theorem reset_panInv : PanInv State.reset := by
  intro c
  rw [reset_voice]
  cases c <;> rfl

theorem reset_memoryInv : MemoryInv State.reset :=
  ⟨rfl, by decide, List.forall_mem_nil _, by decide⟩

/-- Every counter is 0 at reset, and the next-event minimum is NO_EVENT. -/
theorem reset_counterInv : CounterInv State.reset := by
  refine ⟨fun c => ?length, fun c v hv => ?envelope, by decide, by decide⟩
  case length =>
    rw [reset_voice]
    decide
  case envelope =>
    rw [reset_env hv]
    decide

theorem reset_onMaskInv : OnMaskInv State.reset := by
  intro _ _ c hbit
  have hclear : maskBit State.reset.rsb.onMask c = false := BitVec.getLsbD_zero
  exact absurd hbit (Bool.eq_false_iff.mp hclear)

/-- At reset the queue, P's hold and the consumer's hand are empty. -/
theorem reset_queueInv : QueueInv State.reset :=
  ⟨Nat.zero_le _, List.forall_mem_nil _, fun _ hheld => absurd hheld.symm (Option.some_ne_none _),
    fun _ hhand => absurd hhand.symm (Option.some_ne_none _)⟩

/-- Settles O13: every channel is off, every counter and bit is 0, and no word is on its way. -/
theorem resetMeetsTheInvariants : Obligations.ResetMeetsTheInvariants :=
  ⟨iff_of_true rfl rfl, reset_panInv, freqInv_of_off reset_off, reset_memoryInv, reset_counterInv, reset_onMaskInv,
    reset_queueInv, rfl, fun _ => rfl, nextEventInv_of_off reset_off, by decide⟩

end Sys2Proof.Machine
end

section
/-! What is refused before it runs (R309, R330, R340). -/

namespace Sys2Proof.Machine

/-! ### Before the first INIT (R309 (b), R330, R340) -/

theorem issue_beforeInit {s : State} (hcfg : configAdmitted s.cfg = true) (hs : s.started = false)
    (k : State → Result) : issue s k = .refused .beforeInit := by
  rw [issue, if_neg (by simp [hcfg]), if_pos hs]

theorem receiveMessage_beforeInit {s : State} (hs : s.started = false) (w : Word) :
    receiveMessage w s = .fault .consumerBeforeInit := if_pos hs

theorem consumerMoves_beforeInit {s : State} (hs : s.started = false) (m : ConsumerMove) (ms : List ConsumerMove) :
    consumerMoves (m :: ms) s = .fault .consumerBeforeInit := if_neg (Bool.eq_false_iff.mp hs)

/-! ### In a configuration outside its range (R309 (f)) -/

theorem step_badConfiguration {s : State} (hcfg : configAdmitted s.cfg = false) :
    step s = .refused .badConfiguration := if_pos hcfg

/-- `INIT` has a guard of its own, which tests the configuration first too. -/
theorem exec_badConfiguration {i : Instr} {s : State} (hi : i.interface = .operation)
    (hcode : isReservedCode i = false) (hcfg : configAdmitted s.cfg = false) :
    exec i s = .refused .badConfiguration := by
  by_cases hinit : i = .init
  · subst hinit
    exact if_pos hcfg
  · obtain ⟨r, _, hexec⟩ := exec_eq_issue hi hinit hcode
    exact (hexec s).trans (if_pos hcfg)

/-! ### A partial or misaligned access (R62, R309 (e)) -/

theorem fieldAt_eq_none {off bytes : Nat} (h : ∀ f : Field, ¬(f.offset = off ∧ f.size = bytes)) :
    fieldAt off bytes = none := by
  refine List.find?_eq_none.mpr fun f _ => ?_
  rw [Bool.and_eq_true, beq_iff_eq, beq_iff_eq]
  exact h f

section PartialAccess

variable {s : State} {k n : Nat} (hcfg : configAdmitted s.cfg = true) (hk : k < blockSize)
  (hfield : fieldAt k n = none)
include hcfg hk hfield

theorem read_partial :
    consumerMove (.read (s.cfg.rsbAddr + BitVec.ofNat 32 k) n) s = .refused .partialAccess := by
  simp only [consumerMove, consumerRead, locate_rsb_byte (rangesApart_of_admitted hcfg) hk, hfield]

theorem write_partial (v : Word) :
    consumerMove (.write (s.cfg.rsbAddr + BitVec.ofNat 32 k) n v) s = .refused .partialAccess := by
  simp only [consumerMove, consumerWrite, locate_rsb_byte (rangesApart_of_admitted hcfg) hk, hfield]

end PartialAccess

/-- Settles O17: the guards of the operations and of the consumer's moves, and the layout of R64 for a partial access. -/
theorem nothingRunsBeforeInit : Obligations.NothingRunsBeforeInit := by
  refine ⟨fun i s hs hcfg hcode => ⟨fun hi hinit => ?operation, fun hi _ hform => ?message, ?moves⟩,
    fun s hcfg => ⟨step_badConfiguration hcfg, fun i hi hcode => exec_badConfiguration hi hcode hcfg⟩,
    fun s k n v hcfg hk hnone => ?partialAccess⟩
  case operation =>
    obtain ⟨r, _, hexec⟩ := exec_eq_issue hi hinit hcode
    exact (hexec s).trans (issue_beforeInit hcfg hs r)
  case message => exact (exec_message hi hform s).trans (receiveMessage_beforeInit hs _)
  case moves => exact consumerMoves_beforeInit hs
  case partialAccess =>
    have hfield : fieldAt k n = none := fieldAt_eq_none hnone
    exact ⟨read_partial hcfg hk hfield, write_partial hcfg hk hfield v⟩

end Sys2Proof.Machine
end
